-- ==== Sys2Proof/Word.lean ====
section
/-! DEFINITION. The word of the serial link and of the display RAM (spec/30_encoding.md R57, R70: 8 bits)
and the level of a pin (spec/00_scope.md R9, R11: `H` and `L`). -/

namespace Sys2Proof

/-- The unit of the serial link and of the display RAM: 8 bits (R7 BYTE_BITS, R14, R57). -/
abbrev Byte := BitVec 8

/-- The level of a pin (R9). What a level stands for (1, 0, active, inactive) is said where it is used. -/
inductive Level where
  /-- Low: active on a grid output, a scan line and K1 (R11). -/
  | L
  /-- High: inactive on a grid output, a scan line and K1 (R11). -/
  | H
  deriving DecidableEq, Repr, Inhabited

end Sys2Proof
end

