-- ==== Sys2Proof/Syntax.lean ====
section
/-! DEFINITION. The instructions: one constructor per row of spec/opcode_table.json (spec/30_encoding.md R60 to
R65). A constructor keeps every bit of its byte, the ignored ones too, so that no bit is lost between a byte
and its instruction. The pin events and the timer tick (R10) are no instructions: they are `Machine.Event`. -/

namespace Sys2Proof

/-- A completed byte, as the command processor reads it (R72). -/
inductive Instr where
  /-- DISPLAY_MODE_SET `00mmmmmm` (R61): `m` is bits 5:0, inert. -/
  | displayModeSet (m : BitVec 6)
  /-- DATA_SET `01xxxFRx` (R62): `x` is bits 5:3 and `x0` bit 0, both ignored (decision D6); `f` is bit 2 (fixed
  address) and `r` bit 1 (read keys). -/
  | dataSet (x : BitVec 3) (f r x0 : Bool)
  /-- DISPLAY_CONTROL `10xxEbbb` (R63): `x` is bits 5:4 and `b` bits 2:0, both ignored (decision D7); `e` is bit 3. -/
  | displayControl (x : BitVec 2) (e : Bool) (b : BitVec 3)
  /-- ADDRESS_SET `11xxAAAA` (R64): `x` is bits 5:4, ignored; `a` is bits 3:0. -/
  | addressSet (x : BitVec 2) (a : BitVec 4)
  /-- DATA_WRITE `dddddddd` (R65): all 8 bits are the value stored. -/
  | dataWrite (d : Byte)
  deriving DecidableEq, Repr

end Sys2Proof
end

