-- ==== Sys2Proof/WellFormed.lean ====
section
/-! DEFINITION. When an instruction is well formed. Every field of `Instr` has exactly the width of its place in
the byte, and every value of it is accepted (spec/30_encoding.md R67, R68), so the one check is the table's
"condition" on the mode the byte completes in (R59). -/

namespace Sys2Proof

/-- The "condition" column of spec/opcode_table.json: the four commands are received in command mode, a data
byte outside it (R59). No byte value is illegal in either mode (R67). -/
def WellFormed (commandMode : Bool) : Instr → Bool
  | .displayModeSet _ => commandMode
  | .dataSet _ _ _ _ => commandMode
  | .displayControl _ _ _ => commandMode
  | .addressSet _ _ => commandMode
  | .dataWrite _ => !commandMode

end Sys2Proof
end

