-- ==== Sys2Proof/Decode.lean ====
section
/-! DEFINITION. The decoder and, after it, the encoder of a byte (spec/30_encoding.md R60 to R66, R72). Which
instruction a byte is depends on `commandMode` when it completes, never on its value alone (R59). -/

namespace Sys2Proof

/-- Why a byte list is no instruction. -/
inductive DecodeError where
  /-- The list is empty: no byte has completed. No other list is rejected, since each of the 256 values is an
  instruction in either mode (R67). Safe: nothing runs. -/
  | noByte
  deriving DecidableEq, Repr

/-- The field `start + len - 1 : start` of a byte (R9's `b[hi:lo]`). -/
def field (b : Byte) (start len : Nat) : BitVec len := b.extractLsb' start len

/-- The opcode map of R72: in command mode by bits 7:6, outside it a data byte. -/
def decodeByte (commandMode : Bool) (b : Byte) : Instr :=
  if commandMode then
    match b.getLsbD 7, b.getLsbD 6 with
    | false, false => .displayModeSet (field b 0 6)
    | false, true => .dataSet (field b 3 3) (b.getLsbD 2) (b.getLsbD 1) (b.getLsbD 0)
    | true, false => .displayControl (field b 4 2) (b.getLsbD 3) (field b 0 3)
    | true, true => .addressSet (field b 4 2) (field b 0 4)
  else .dataWrite b

/-- One instruction from a list of bytes, with the bytes that are left. Every instruction is one byte (R70). -/
def decode (commandMode : Bool) : List Byte → Except DecodeError (Instr × List Byte)
  | [] => .error .noByte
  | b :: rest => .ok (decodeByte commandMode b, rest)

/-- The byte of an instruction, from the formats R61 to R65. -/
def encodeByte : Instr → Byte
  | .displayModeSet m => (0b00#2 ++ m : BitVec (2 + 6))
  | .dataSet x f r x0 =>
    (0b01#2 ++ x ++ BitVec.ofBool f ++ BitVec.ofBool r ++ BitVec.ofBool x0 : BitVec (2 + 3 + 1 + 1 + 1))
  | .displayControl x e b => (0b10#2 ++ x ++ BitVec.ofBool e ++ b : BitVec (2 + 2 + 1 + 3))
  | .addressSet x a => (0b11#2 ++ x ++ a : BitVec (2 + 2 + 4))
  | .dataWrite d => d

/-- The words of an instruction: exactly one byte (R70). -/
def encode (i : Instr) : List Byte := [encodeByte i]

/-- The first `k` bytes of a number, the least significant first. -/
def lowBytes : Nat → Nat → List Byte
  | 0, _ => []
  | k + 1, w => BitVec.ofNat 8 w :: lowBytes k (w / 256)

/-- The instruction a table word is in command mode, the mode after reset and after every STB_RISE (R19, R58).
The mode is no bit of the word, so the row DATA_WRITE, whose condition is `commandMode = false`, has no word of
its own here. DESIGN CHOICE (notes/assumptions/5.md); safe: it is no part of the machine. -/
def decodeTableWord (nbits w : Nat) : Option Instr :=
  match decode true (lowBytes ((nbits + 7) / 8) (w % 2 ^ nbits)) with
  | .ok (i, []) => some i
  | _ => none

end Sys2Proof
end

