-- ==== Sys2Proof/Config.lean ====
section
/-! DEFINITION. What is fixed for this block (spec/00_scope.md R7) and the free values the spec leaves open.
The widths and counts of R7 that are types stand in the types of `State`: ADDR_BITS 4 (`address`), BYTE_BITS 8
(`Byte`), NUM_GRIDS 4 (`grid`), NUM_SEGS 8 (`seg`), NUM_SCAN_LINES 5 and NUM_KEY_INPUTS 1 (the argument of
`Event.tick`), KEY_REPORT_BYTES 3 (`keyData`). SCAN_LINE_PIN is `Machine.scanLinePin` (decision D3). -/

namespace Sys2Proof.Config

/-- RAM_SIZE (R7): the display RAM holds the addresses 0 to 13. -/
@[simp] abbrev ramSize : Nat := 14

/-- DIO_PRESHIFT_LEVEL (R7, R91, decision D9): the level on DIO from the switch to output until the first
shift-out edge. A free draw, made anew each time key-read mode is entered: draw number n is
`dioPreshiftLevel n`, and nothing says what it is. DESIGN CHOICE (the form of the draw, notes/assumptions/1.md):
one function of the draw's number alone, so two instances, or two runs that are compared, draw equal levels at equal
numbers, where the spec's draws are free of each other. Safe for a claim about one run, since every sequence of levels
is admitted; unsafe for a claim that compares two runs or two instances. -/
opaque dioPreshiftLevel : Nat → Level

/-- TICK_PERIOD (R7, R125, R150): the interval between ticks, a parameter. No rule of the spec and no
definition of the model depends on it (notes/assumptions/13.md). -/
opaque tickPeriod : Nat

end Sys2Proof.Config
end

