-- ==== Sys2Proof/Machine/State.lean ====
section
/-! DEFINITION. The state: ChipState (spec/10_state.md R13 to R29) and the model's own two fields; the reasons a
step could stop; and the state after reset (spec/70_reset_and_hazards.md R135). -/

namespace Sys2Proof.Machine

/-- The display RAM as a list of (address, byte) in canonical form (`Memory.wf`); an address that is not listed
reads `Memory.blank`. -/
abbrev Memory := List Host.Cell

/-- Which multiplex phase the next tick runs (R25). -/
inductive Phase where
  | scan
  | display
  deriving DecidableEq, Repr

/-- The direction of the DIO pin (R26). -/
inductive DioDir where
  | input
  | output
  deriving DecidableEq, Repr

/-- The event alphabet (spec/00_scope.md R10): exactly these five. A level the block reads from inside an event
(R10: DIO, K1) is the event's argument. DESIGN CHOICE (notes/assumptions/2.md, 11.md); safe: every level is admitted. -/
inductive Event where
  /-- STB_RISE: a low-to-high transition of STB. -/
  | stbRise
  /-- STB_FALL: a high-to-low transition of STB. -/
  | stbFall
  /-- CLK_RISE: a low-to-high transition of CLK; `dio` is the level the host's side puts on DIO at the edge. -/
  | clkRise (dio : Level)
  /-- CLK_FALL: a high-to-low transition of CLK. -/
  | clkFall
  /-- TICK(k1): one timer tick; `k1[ks]` is the level of K1 while scan line `ks` alone is driven active (R10, R132). -/
  | tick (k1 : Vector Level 5)
  deriving DecidableEq, Repr

/-- Faults. The block has none: no event raises an exception or stops the block (spec/60_exceptions.md R114,
R116), so this type has no constructor and no meaning can answer with a fault. DEDUCED (notes/assumptions/14.md);
unsafe: were there a fault, the model would lack it. -/
inductive Fault where
  deriving DecidableEq, Repr

/-- Refusals. -/
inductive Refusal where
  /-- An instruction without a meaning, raised by `exec`'s arm for it. No arm raises it: every instruction has
  its meaning. Safe: a refusal claims nothing about the hardware. -/
  | notModelled (mnemonic : String)
  deriving DecidableEq, Repr

/-- ChipState (R13) with the output pins, and the model's own `events` and `draws`. -/
structure State where
  /-- Display RAM, addresses 0 to 13, one byte each (R14). -/
  ram : Memory
  /-- The current write pointer, 4 bits, 0 to 15 (R15). -/
  address : BitVec 4
  /-- Auto-increment addressing enabled (R16). -/
  autoInc : Bool
  /-- Global display enable (R17). -/
  displayOn : Bool
  /-- The grid the next enabled display phase drives: 2-bit unsigned, 0 to 3 (R18). -/
  activeGrid : Fin 4
  /-- The next byte is a command, not data (R19). -/
  commandMode : Bool
  /-- Key-read mode: DIO is driven outward with the key report (R20). -/
  readingKeys : Bool
  /-- The shift-in accumulator (R21). -/
  currentByte : Byte
  /-- The shift-in bit count, 4-bit unsigned; 0 to 7 between events, 8 only inside the event that completes a
  byte (R22). -/
  bitIndex : BitVec 4
  /-- The key-report shift-out counter, 5-bit unsigned, 0 to 24 (R23). -/
  keyBitCounter : BitVec 5
  /-- The last scan's key-press bitmap, 3 bytes (R24). -/
  keyData : Vector Byte 3
  /-- Which multiplex phase runs next (R25). -/
  phase : Phase
  /-- The direction of DIO (R26). -/
  dioDir : DioDir
  /-- The level the block drives on DIO while `dioDir` is output (R27). -/
  dioOut : Level
  /-- The output levels of SEG1 to SEG8; index i is pin SEG(i+1) (R28). -/
  seg : Vector Level 8
  /-- The output levels of GRID1 to GRID4; index g is pin GRID(g+1) (R29). -/
  grid : Vector Level 4
  /-- The MODEL's own field: the events that have still to happen, the next one first. The environment's single
  total order of events (R52, R119), as plain data. DESIGN CHOICE (notes/assumptions/2.md); safe. -/
  events : List Event
  /-- The MODEL's own field: how many free draws of DIO_PRESHIFT_LEVEL have been made. DESIGN CHOICE
(notes/assumptions/1.md): states with equal counts draw the same level next; unsafe for a claim that compares runs. -/
  draws : Nat
  deriving DecidableEq, Repr

/-- The state at initialization: the table of R135. `phase` and `grid` are the source's values, the other
values are the spec's decision D2 (notes/assumptions/3.md). `dioOut`, which the spec leaves unspecified, is the
model's choice (DESIGN CHOICE, notes/assumptions/4.md), as are the model's own fields. Unsafe: a proof can rest on
these values. -/
def State.reset : State where
  ram := []
  address := 0
  autoInc := false
  displayOn := false
  activeGrid := 0
  commandMode := true
  readingKeys := false
  currentByte := 0
  bitIndex := 0
  keyBitCounter := 0
  keyData := #v[0, 0, 0]
  phase := .scan
  dioDir := .input
  dioOut := .L
  seg := #v[.L, .L, .L, .L, .L, .L, .L, .L]
  grid := #v[.H, .H, .H, .H]
  events := []
  draws := 0

end Sys2Proof.Machine
end

