-- ==== Sys2Proof/Machine/Operands.lean ====
section
/-! DEFINITION. How a field of a byte, or a pair of RAM bytes, becomes a value (spec/30_encoding.md R66) and how
levels and bits stand for each other (spec/00_scope.md R9, R11, decision D12). -/

namespace Sys2Proof.Machine

/-- R9's `bit(lvl)`: 1 for H, 0 for L. The spec's decision D12 (notes/assumptions/10.md); unsafe. -/
def bit : Level → Bool
  | .H => true
  | .L => false

/-- R9's `lvl(x)`: H for 1, L for 0. -/
def lvl : Bool → Level
  | true => .H
  | false => .L

/-- Data Command Setting: `autoInc <- (b[2] = 0)`, the inverse of bit F (R66). -/
def autoIncOperand (f : Bool) : Bool := !f

/-- Data Command Setting: `keyread <- (b[1] = 1)` (R66). -/
def keyReadOperand (r : Bool) : Bool := r

/-- Display Control: `displayOn <- (b[3] = 1)` (R66). -/
def displayOnOperand (e : Bool) : Bool := e

/-- Address Setting: `address <- b[3:0]`, unchanged, 14 and 15 included (R66, R96). -/
def addressOperand (a : BitVec 4) : BitVec 4 := a

/-- Data byte: `v <- b[7:0]`, unchanged (R66). -/
def dataOperand (d : Byte) : Byte := d

/-- The address after a data write with auto-increment: `(address + 1) mod 14` (R97, R98). -/
def nextAddress (a : BitVec 4) : BitVec 4 := BitVec.ofNat 4 ((a.toNat + 1) % Config.ramSize)

/-- The grid after an enabled display phase: `(activeGrid + 1) mod 4` (R109). -/
def nextGrid (g : Fin 4) : Fin 4 := g + 1

/-- The address of a grid's even byte, `2 * g` (R108). -/
def evenAddress (g : Fin 4) : BitVec 4 := BitVec.ofNat 4 (2 * g.val)

/-- The address of a grid's odd byte, `2 * g + 1` (R108). -/
def oddAddress (g : Fin 4) : BitVec 4 := BitVec.ofNat 4 (2 * g.val + 1)

/-- The segment pattern of a grid's two bytes (R108): bits 4:0 of the even byte and bits 5:3 of the odd byte. -/
def segmentPattern (even odd : Byte) : Byte :=
  (even &&& 0x1F#8) ||| (((odd >>> 3) &&& 0x07#8) <<< 5)

end Sys2Proof.Machine
end

