-- ==== Sys2Proof/Machine/Flags.lean ====
section
/-! DEFINITION. The mode flags and what is written with them (spec/10_state.md R34). The block has no arithmetic
condition codes. -/

namespace Sys2Proof.Machine

/-- The serial side's three operating modes (spec/60_exceptions.md R124). -/
inductive SerialMode where
  | command
  | data
  | keyRead
  deriving DecidableEq, Repr

/-- R124's table, a function of `commandMode` and `readingKeys`; none for the pair the table does not have
(both true), which no run reaches (R35, item 5; notes/assumptions/15.md). -/
def serialMode (s : State) : Option SerialMode :=
  match s.commandMode, s.readingKeys with
  | true, false => some .command
  | false, false => some .data
  | false, true => some .keyRead
  | true, true => none

/-- Enter key-read mode (R91, the block under `b[1] = 1`): the shift-out counter starts at 0, DIO becomes an
output, and its level until the first shift-out edge is a new free draw (decision D9, notes/assumptions/1.md). -/
def enterKeyRead (s : State) : State :=
  { s with
    readingKeys := true
    keyBitCounter := 0
    dioDir := .output
    dioOut := Config.dioPreshiftLevel s.draws
    draws := s.draws + 1 }

/-- Leave key-read mode and release DIO: the part of STB_RISE that R75 gives to key reading. `dioOut` is kept; it
is not observable while DIO is an input (R27). -/
def leaveKeyRead (s : State) : State :=
  { s with readingKeys := false, keyBitCounter := 0, dioDir := .input }

/-- The next completed byte is a command (R75). -/
def enterCommandMode (s : State) : State := { s with commandMode := true }

/-- The next completed byte is data (R91, R95). -/
def leaveCommandMode (s : State) : State := { s with commandMode := false }

end Sys2Proof.Machine
end

