-- ==== Sys2Proof/Machine/Ops.lean ====
section
/-! DEFINITION. The named operations over the display RAM, the pins and the queue of events. The block has no
exceptions and no trap entry or return (spec/60_exceptions.md R114, R121, R122), so there is no operation for
taking one. -/

namespace Sys2Proof.Machine

/-- What an address that is not listed reads as: the reset contents 0x00 of every location (R14). The spec's decision
D2 (notes/assumptions/12.md); unsafe: the contents at power-on are not in the source. -/
def Memory.blank : Byte := 0x00#8

/-- The canonical form: addresses strictly rising, every address one of 0 to 13 (R39), no entry equal to what an
unlisted address reads as. -/
abbrev Memory.wf (m : Memory) : Prop :=
  m.Pairwise (fun c d => c.1 < d.1) ∧ ∀ c ∈ m, c.1 < Config.ramSize ∧ c.2 ≠ Memory.blank

/-- The byte at an address. -/
def Memory.read : Memory → Nat → Byte
  | [], _ => Memory.blank
  | c :: m, a => if c.1 = a then c.2 else Memory.read m a

/-- The memory with nothing listed at an address. -/
def Memory.erase (m : Memory) (a : Nat) : Memory := m.filter (fun c => c.1 != a)

/-- The memory with one more entry, before the first that has a greater address. -/
def Memory.place : Memory → Nat → Byte → Memory
  | [], a, v => [(a, v)]
  | c :: m, a, v => if a < c.1 then (a, v) :: c :: m else c :: Memory.place m a v

/-- The memory after one byte is stored. -/
def Memory.write (m : Memory) (a : Nat) (v : Byte) : Memory :=
  if v = Memory.blank then m.erase a else (m.erase a).place a v

/-- MemWrite(a, 1, v) (spec/20_memory.md R38): 14 and 15 hold no storage, and a write to either is dropped (R39). -/
def memWrite (a : BitVec 4) (v : Byte) (s : State) : State :=
  if a.toNat < Config.ramSize then { s with ram := s.ram.write a.toNat v } else s

/-- MemRead(a, 1) (R38). Only the display phase calls it, with an address in 0 to 7 (R108). -/
def memRead (a : BitVec 4) (s : State) : Byte := s.ram.read a.toNat

/-- The pins the block can drive (spec/10_state.md R30). Index i of `seg` is SEG(i+1), index g of `grid` is
GRID(g+1). -/
inductive OutPin where
  | seg (i : Fin 8)
  | grid (g : Fin 4)
  | dio
  deriving DecidableEq, Repr

/-- PinWrite(P, lvl) (R9), with the level kept as state (R27 to R29). -/
def pinWrite (p : OutPin) (l : Level) (s : State) : State :=
  match p with
  | .seg i => { s with seg := s.seg.set i l }
  | .grid g => { s with grid := s.grid.set g l }
  | .dio => { s with dioOut := l }

/-- PinRead(DIO) (R9, R81): the level of the line when the host's side puts `host` on it. While DIO is an input
the level is the host's; while it is an output the line level is `dioOut`. The spec's decision D10
(notes/assumptions/10.md); unsafe: a host that drives the line against the block is not modelled. -/
def pinReadDio (host : Level) (s : State) : Level :=
  match s.dioDir with
  | .input => host
  | .output => s.dioOut

/-- The next event and the state in which it happens; none when no event is pending. -/
def nextEvent (s : State) : Option (Event × State) :=
  match s.events with
  | [] => none
  | e :: rest => some (e, { s with events := rest })

/-- What a step does when no event is pending: the block changes state only when an event arrives (R6), so
nothing. DEDUCED (notes/assumptions/2.md); safe. -/
def idle (s : State) : State := s

end Sys2Proof.Machine
end

