-- ==== Sys2Proof/Machine/Commands.lean ====
section
/-! DEFINITION. The meanings of the four commands (spec/41_commands.md R89 to R96). None raises anything (R116). -/

namespace Sys2Proof.Machine

/-- DISPLAY_MODE_SET (R89, R90): inert; `commandMode` keeps its value, and the mode bits mean nothing. -/
def execDisplayModeSet (_m : BitVec 6) (s : State) : Host.Outcome State Fault Refusal := .next s

/-- DATA_SET (R91, R92): bit R enters key-read mode, bit F sets the addressing mode, and the frame's next bytes are
data. Bits 5:3 and 0 are ignored, and with R clear the key-read fields are not written: the spec's decision D6
(notes/assumptions/9.md); unsafe for a host that sets those bits. -/
def execDataSet (_x : BitVec 3) (f r _x0 : Bool) (s : State) : Host.Outcome State Fault Refusal :=
  let s := if keyReadOperand r then enterKeyRead s else s
  .next (leaveCommandMode { s with autoInc := autoIncOperand f })

/-- DISPLAY_CONTROL (R93, R94): bit E is the display enable; brightness and bits 5:4 are ignored (decision D7,
notes/assumptions/9.md) and `commandMode` is kept. -/
def execDisplayControl (_x : BitVec 2) (e : Bool) (_b : BitVec 3) (s : State) :
    Host.Outcome State Fault Refusal :=
  .next { s with displayOn := displayOnOperand e }

/-- ADDRESS_SET (R95, R96): the four bits are loaded as they are, and the frame's next bytes are data. -/
def execAddressSet (_x : BitVec 2) (a : BitVec 4) (s : State) : Host.Outcome State Fault Refusal :=
  .next (leaveCommandMode { s with address := addressOperand a })

end Sys2Proof.Machine
end

