-- ==== Sys2Proof/Machine/DataWrite.lean ====
section
/-! DEFINITION. The meaning of a data byte (spec/41_commands.md R97, R98). -/

namespace Sys2Proof.Machine

/-- DATA_WRITE (R97): below 14 the byte is stored and, with auto-increment, the address advances modulo 14; at 14
and 15 nothing at all happens (conflict C2). -/
def execDataWrite (d : Byte) (s : State) : Host.Outcome State Fault Refusal :=
  if s.address.toNat < Config.ramSize then
    let s := memWrite s.address (dataOperand d) s
    .next (if s.autoInc then { s with address := nextAddress s.address } else s)
  else .next s

end Sys2Proof.Machine
end

