-- ==== Sys2Proof/Machine/Dispatch.lean ====
section
/-! DEFINITION. One arm per instruction (spec/41_commands.md R88). -/

namespace Sys2Proof.Machine

-- The meaning of each row of spec/opcode_table.json.
def exec (i : Instr) (s : State) : Host.Outcome State Fault Refusal :=
  match i with
  | .displayModeSet m => Sys2Proof.Machine.execDisplayModeSet m s
  | .dataSet x f r x0 => Sys2Proof.Machine.execDataSet x f r x0 s
  | .displayControl x e b => Sys2Proof.Machine.execDisplayControl x e b s
  | .addressSet x a => Sys2Proof.Machine.execAddressSet x a s
  | .dataWrite d => Sys2Proof.Machine.execDataWrite d s

end Sys2Proof.Machine
end

