-- ==== Sys2Proof/Machine/Multiplex.lean ====
section
/-! DEFINITION. The multiplex engine (spec/42_multiplex.md): the timer tick and its scan and display phases. -/

namespace Sys2Proof.Machine

/-- SCAN_LINE_PIN (R7, R103): scan line ks is carried by SEG(ks+1). The spec's decision D3
(notes/assumptions/6.md); unsafe: were they other pins, SEG1 to SEG5 would be wrong after a scan. -/
def scanLinePin (ks : Fin 5) : Fin 8 := ks.castLE (by decide)

/-- The five scan lines in the order they are driven (R103). -/
def scanLines : List (Fin 5) := [0, 1, 2, 3, 4]

/-- The key-bit table (R104, R71): the report byte and the mask of scan line ks. -/
def keyBit : Fin 5 → Fin 3 × Byte
  | 0 => (0, 0x02#8)
  | 1 => (0, 0x10#8)
  | 2 => (1, 0x02#8)
  | 3 => (1, 0x10#8)
  | 4 => (2, 0x02#8)

/-- SetKeyBit(ks) (R104). -/
def setKeyBit (ks : Fin 5) (s : State) : State :=
  { s with keyData := s.keyData.set (keyBit ks).1 (s.keyData[(keyBit ks).1] ||| (keyBit ks).2) }

/-- ScanPhase, step 1 (R102): every grid to the inactive level, the report to zero. -/
def blankAndClear (s : State) : State :=
  let s := ([0, 1, 2, 3] : List (Fin 4)).foldl (fun s g => pinWrite (.grid g) .H s) s
  { s with keyData := #v[0, 0, 0] }

/-- All five scan lines to the inactive level (R103). -/
def releaseScanLines (s : State) : State :=
  scanLines.foldl (fun s j => pinWrite (.seg (scanLinePin j)) .H s) s

/-- ScanPhase, one turn of the loop of R103: line ks alone active, then K1 sampled; low is asserted. -/
def scanLine (k1 : Vector Level 5) (s : State) (ks : Fin 5) : State :=
  let s := pinWrite (.seg (scanLinePin ks)) .L (releaseScanLines s)
  if k1[ks] = .L then setKeyBit ks s else s

/-- ScanPhase(k1) (R102 to R105), whatever the display and the serial side are doing (R106). -/
def scanPhase (k1 : Vector Level 5) (s : State) : State :=
  scanLines.foldl (scanLine k1) (blankAndClear s)

/-- Drive the eight segment pins from a pattern: bit i goes to SEG(i+1), 1 as H (R110). The spec's decision
D4 (notes/assumptions/7.md); unsafe. -/
def driveSegments (pattern : Byte) (s : State) : State :=
  ([0, 1, 2, 3, 4, 5, 6, 7] : List (Fin 8)).foldl
    (fun s i => pinWrite (.seg i) (lvl (pattern.getLsbD i.val)) s) s

/-- DisplayPhase() (R107 to R111): nothing while the display is off; otherwise the pattern of the active grid's
two bytes, the segments, the grid, and last the next grid. -/
def displayPhase (s : State) : State :=
  if s.displayOn then
    let g := s.activeGrid
    let pattern := segmentPattern (memRead (evenAddress g) s) (memRead (oddAddress g) s)
    { pinWrite (.grid g) .L (driveSegments pattern s) with activeGrid := nextGrid g }
  else s

/-- TICK(k1) (R100): run one phase and switch to the other. -/
def tick (k1 : Vector Level 5) (s : State) : State :=
  match s.phase with
  | .scan => { scanPhase k1 s with phase := .display }
  | .display => { displayPhase s with phase := .scan }

end Sys2Proof.Machine
end

