-- ==== Sys2Proof/Machine/SerialLink.lean ====
section
/-! DEFINITION. SerialLinkDecoder and KeyReportShiftOut (spec/40_serial_link.md): what STB_RISE, STB_FALL and
CLK_FALL do, and the parts of CLK_RISE that come before the completed byte is dispatched (`Machine/Events.lean`).
None of them looks at the level of STB (R80, decision D5), which is no state (R13). -/

namespace Sys2Proof.Machine

/-- The accumulator and its count start again (R75, R78). -/
def clearAccumulator (s : State) : State := { s with currentByte := 0, bitIndex := 0 }

/-- STB_RISE: frame reset (R75). -/
def stbRise (s : State) : State := leaveKeyRead (enterCommandMode (clearAccumulator s))

/-- STB_FALL: no effect (R76). The spec's decision D5 (notes/assumptions/8.md); unsafe. -/
def stbFall (s : State) : State := s

/-- The sampled bit goes to position `bitIndex` of the accumulator, and the count goes up (R77). -/
def shiftIn (d : Bool) (s : State) : State :=
  { s with
    currentByte := s.currentByte ||| ((BitVec.ofBool d).setWidth 8 <<< s.bitIndex.toNat)
    bitIndex := s.bitIndex + 1 }

/-- Whether the shift-in that just ran completed a byte (R77). -/
def byteIsComplete (s : State) : Bool := s.bitIndex = 8

/-- One shift-out edge in key-read mode (R84): the report bit `keyBitCounter` counts to goes on DIO, read live from
`keyData`; after 24 bits nothing happens (R86). The counter is a field of its own (decision D8,
notes/assumptions/16.md). -/
def shiftOut (s : State) : State :=
  let byteIndex := s.keyBitCounter.toNat / 8
  let bitInByte := s.keyBitCounter.toNat % 8
  if h : byteIndex < 3 then
    { pinWrite .dio (lvl (s.keyData[byteIndex].getLsbD bitInByte)) s with
      keyBitCounter := s.keyBitCounter + 1 }
  else s

/-- CLK_FALL: a shift-out edge in key-read mode (R84), nothing otherwise (R85). -/
def clkFall (s : State) : State := if s.readingKeys then shiftOut s else s

end Sys2Proof.Machine
end

