-- ==== Sys2Proof/Machine/Events.lean ====
section
/-! DEFINITION. The five events of spec/00_scope.md R10, each run to completion (R6, R48): the completed byte's way
to the command processor, CLK_RISE, and the choice of the event's rule. -/

namespace Sys2Proof.Machine

/-- Dispatch(b) (R88): the byte is decoded in the mode it completes in, and its meaning runs. -/
def dispatch (b : Byte) (s : State) : Host.Outcome State Fault Refusal :=
  exec (decodeByte s.commandMode b) s

/-- ByteComplete() (R78): the accumulator and count start again, and the byte is handed over. -/
def byteComplete (s : State) : Host.Outcome State Fault Refusal :=
  dispatch s.currentByte (clearAccumulator s)

/-- CLK_RISE: outside key-read mode one bit is sampled from DIO (R77), and the eighth completes the byte (R78); in
key-read mode nothing happens and DIO is not sampled (R79). -/
def clkRise (dio : Level) (s : State) : Host.Outcome State Fault Refusal :=
  if s.readingKeys then .next s
  else
    let t := shiftIn (bit (pinReadDio dio s)) s
    if byteIsComplete t then byteComplete t else .next t

/-- What an event does. Every event is enabled in every state (R116). -/
def handle (e : Event) (s : State) : Host.Outcome State Fault Refusal :=
  match e with
  | .stbRise => .next (stbRise s)
  | .stbFall => .next (stbFall s)
  | .clkRise dio => clkRise dio s
  | .clkFall => .next (clkFall s)
  | .tick k1 => .next (tick k1 s)

end Sys2Proof.Machine
end

