-- ==== Sys2Proof/Machine/Step.lean ====
section
/-! DEFINITION. One step: the next pending event happens (spec/00_scope.md R6, spec/20_memory.md R52). And where the
host's check places an instruction so that the very next step runs it. -/

namespace Sys2Proof.Machine

/-- One step of the block: the first pending event happens, whole; with none pending nothing changes. -/
def step (s : State) : Host.Outcome State Fault Refusal :=
  match nextEvent s with
  | none => .next (idle s)
  | some (e, t) => handle e t

/-- `s` with the byte `w` on the point of completing: the link is receiving (not in key-read mode), seven bits are
in, and the next event is the CLK_RISE that brings the eighth. `commandMode` is left as it is: it decides what the
byte is (R59), and after reset it is command mode. DESIGN CHOICE (notes/assumptions/5.md); safe: no event does this. -/
def State.withFetchWord (s : State) (nbits w : Nat) : State :=
  let b : Byte := BitVec.ofNat 8 (w % 2 ^ nbits)
  { leaveKeyRead s with
    currentByte := b &&& 0x7F#8
    bitIndex := 7
    events := .clkRise (lvl (b.getLsbD 7)) :: s.events }

end Sys2Proof.Machine
end

