-- ==== Sys2Proof/Machine/HostNotation.lean ====
section
/-! DEFINITION. The host-transaction notation of spec/30_encoding.md R73 and R74 (decision D13): the events a
host's transaction is. It changes nothing in the machine. -/

namespace Sys2Proof.Machine

/-- `W b` (R73): for each bit, the least significant first, CLK falls, the host drives DIO, CLK rises. -/
def wEvents (b : Byte) : List Event :=
  [0, 1, 2, 3, 4, 5, 6, 7].flatMap (fun i => [Event.clkFall, Event.clkRise (lvl (b.getLsbD i))])

/-- `R n` (R73): n clock pulses, DIO sampled after each. `host` is what stands on DIO from outside; the block does
not look at it in key-read mode (R79). -/
def rEvents (host : Level) : Nat → List Event
  | 0 => []
  | n + 1 => .clkFall :: .clkRise host :: rEvents host n

/-- The argument of `TICK {ks, ...}` (R73): K1 is low for the listed scan lines and high for the rest. -/
def k1Of (closed : List (Fin 5)) : Vector Level 5 :=
  let level (ks : Fin 5) : Level := if ks ∈ closed then .L else .H
  #v[level 0, level 1, level 2, level 3, level 4]

/-- The mnemonics of R73. `CMD b` and `DATA b` are `w b`. -/
inductive Transaction where
  /-- `STB+`. -/
  | stbUp
  /-- `STB-`. -/
  | stbDown
  /-- `W b`, `CMD b`, `DATA b`. -/
  | w (b : Byte)
  /-- `R n`, with the level that stands on DIO from outside. -/
  | r (host : Level) (n : Nat)
  /-- `TICK {ks, ...}`; `TICK` is the empty list. -/
  | tick (closed : List (Fin 5))
  deriving DecidableEq, Repr

/-- The expansion of R73. -/
def transactionEvents : Transaction → List Event
  | .stbUp => [.stbRise]
  | .stbDown => [.stbFall]
  | .w b => wEvents b
  | .r host n => rEvents host n
  | .tick closed => [.tick (k1Of closed)]

/-- `FRAME [b1, ..., bn]` (R74). -/
def frameEvents (bs : List Byte) : List Event :=
  .stbFall :: bs.flatMap wEvents ++ [.stbRise]

/-- `KEYREAD` (R74). -/
def keyReadEvents (host : Level) : List Event :=
  .stbFall :: wEvents 0x42#8 ++ rEvents host 24 ++ [.stbRise]

end Sys2Proof.Machine
end

