-- ==== Sys2Proof/Safety.lean ====
section
/-! DEFINITION. What claims speak of: the pins the outside sees (spec/10_state.md R36), the invariants between
events (R35), and which events come from where (spec/00_scope.md R8). -/

namespace Sys2Proof.Machine

/-- The levels the outside can see (R30, R36): DIO only while the block drives it. -/
structure Pins where
  dio : Option Level
  seg : Vector Level 8
  grid : Vector Level 4
  deriving DecidableEq, Repr

/-- The pins of a state (R36): with DIO an input the block drives nothing on it (R27). -/
def State.pins (s : State) : Pins where
  dio := match s.dioDir with
    | .input => none
    | .output => some s.dioOut
  seg := s.seg
  grid := s.grid

/-- An outcome that is a next state: neither fault nor refusal. -/
def Completes (o : Host.Outcome State Fault Refusal) : Prop := ∃ t, o = .next t

/-- An event that comes from the host (R8, R117); the other kind is the timer's tick. -/
def Event.fromHost : Event → Bool
  | .tick _ => false
  | _ => true

/-- Up to `n` steps, stopping at the first fault or refusal. -/
def runSteps : Nat → State → Host.Outcome State Fault Refusal
  | 0, s => .next s
  | n + 1, s =>
    match step s with
    | .next t => runSteps n t
    | .fault r => .fault r
    | .refused r => .refused r

/-- The next event is the CLK_RISE that completes the byte `b` (R77, R78): the eighth bit arrives outside key-read
mode. -/
def CompletesByte (s : State) (b : Byte) : Prop :=
  ∃ dio rest, s.events = .clkRise dio :: rest ∧ s.readingKeys = false ∧ s.bitIndex = 7 ∧
    b = (shiftIn (bit (pinReadDio dio s)) s).currentByte

/-- Bits 7:6 of a byte, which select the command (spec/30_encoding.md R60). -/
def topBits (b : Byte) : BitVec 2 := b.extractLsb' 6 2

/-- The link is at a byte boundary and receiving: what R75 leaves, and what every completed byte but a key-read
command leaves (R78). -/
structure AtByteBoundary (s : State) : Prop where
  receiving : s.readingKeys = false
  input : s.dioDir = .input
  emptyByte : s.currentByte = 0
  noBits : s.bitIndex = 0

/-- The invariants of R35 (items 1 to 7; item 8 speaks of the past and is a statement of its own), and the canonical
form of the display RAM, which is the model's. -/
structure Inv (s : State) : Prop where
  /-- R35, item 1. -/
  dio : s.dioDir = .output ↔ s.readingKeys = true
  /-- R35, item 2. -/
  bitIndex : s.bitIndex.toNat ≤ 7
  /-- R35, item 3. -/
  partialByte : s.currentByte.toNat < 2 ^ s.bitIndex.toNat
  /-- R35, item 4. -/
  counter : s.keyBitCounter.toNat ≤ 24
  /-- R35, item 4. -/
  counterIdle : s.readingKeys = false → s.keyBitCounter = 0
  /-- R35, item 5. -/
  keyRead : s.readingKeys = true → s.commandMode = false ∧ s.currentByte = 0 ∧ s.bitIndex = 0
  /-- R35, item 6. -/
  report : s.keyData[0] &&& 0xED#8 = 0 ∧ s.keyData[1] &&& 0xED#8 = 0 ∧ s.keyData[2] &&& 0xFD#8 = 0
  /-- R35, item 7. -/
  oneGrid : ∀ g h : Fin 4, s.grid[g] = .L → s.grid[h] = .L → g = h
  /-- R35, item 7. -/
  blanked : s.phase = .display → ∀ g : Fin 4, s.grid[g] = .H
  /-- The model's own: the display RAM is in canonical form. -/
  ram : s.ram.wf

end Sys2Proof.Machine
end

