-- ==== Sys2Proof/Certificates/Slice0/Obligations.lean ====
section
/-! DEFINITION. The statements for the provers. Each docstring names the rule of spec/ it formalises, or the
decision or the model's choice it rests on. -/

open Sys2Proof Sys2Proof.Machine

/-! ### Encoding -/

/-- Decode and encode agree (spec/30_encoding.md sections 2 and 7): an instruction received in its mode is read back
from its byte with every field, whatever bytes follow. -/
def Obligations.DecodeOfEncodeIsTheInstruction : Prop :=
  ∀ (mode : Bool) (i : Instr) (rest : List Byte), WellFormed mode i = true →
    decode mode (encode i ++ rest) = .ok (i, rest)

/-- R67 (and R59 for data bytes): in either mode each of the 256 byte values is exactly one instruction, the decoder
reads that one, and it raises nothing. -/
def Obligations.EveryByteIsExactlyOneInstruction : Prop :=
  ∀ (mode : Bool) (b : Byte),
    (WellFormed mode (decodeByte mode b) = true ∧ encodeByte (decodeByte mode b) = b) ∧
    (∀ i : Instr, WellFormed mode i = true → encodeByte i = b → i = decodeByte mode b) ∧
    ∀ s : State, s.commandMode = mode → Completes (dispatch b s)

/-- A few words of spec/95_test_vectors.md, one for each row of the opcode table, read as the encodings say. -/
def Obligations.SampleWordsDecodeAsTheSpecSays : Prop :=
  decodeTableWord 8 0x03 = some (.displayModeSet 3#6) ∧
  decodeTableWord 8 0x42 = some (.dataSet 0#3 false true false) ∧
  decodeTableWord 8 0x44 = some (.dataSet 0#3 true false false) ∧
  decodeTableWord 8 0xB8 = some (.displayControl 3#2 true 0#3) ∧
  decodeTableWord 8 0x87 = some (.displayControl 0#2 false 7#3) ∧
  decodeTableWord 8 0xF3 = some (.addressSet 3#2 3#4) ∧
  decode false [0xC0#8] = .ok (.dataWrite 0xC0#8, [])

/-- R68, with the spec's decisions D6 and D7: the ignored bits of a command have no effect. Where both bytes are
key-read commands they make the same free draw, which is the model's choice (notes/assumptions/1.md). -/
def Obligations.IgnoredBitsHaveNoEffect : Prop :=
  ∀ (s : State) (b c : Byte), s.commandMode = true → topBits b = topBits c →
    (topBits b = 1#2 → b.getLsbD 1 = c.getLsbD 1 ∧ b.getLsbD 2 = c.getLsbD 2) →
    (topBits b = 2#2 → b.getLsbD 3 = c.getLsbD 3) →
    (topBits b = 3#2 → b.extractLsb' 0 4 = c.extractLsb' 0 4) →
    dispatch b s = dispatch c s

/-! ### The instructions: what each does, in every state, and that it completes -/

/-- R89: DISPLAY_MODE_SET changes nothing, `commandMode` included, for all 64 values of its bits. -/
def Obligations.DisplayModeSetIsInert : Prop :=
  (∀ (m : BitVec 6) (s : State), exec (.displayModeSet m) s = .next s) ∧
  ∀ (b : Byte) (s : State), s.commandMode = true → topBits b = 0#2 → dispatch b s = .next s

/-- R91, with the spec's decisions D6 (the bits that are ignored, and nothing written for R clear) and D9 (the level
on DIO after the switch is a free draw: here draw number `s.draws`, of which nothing is known; counting the draws is
the model's, notes/assumptions/1.md). -/
def Obligations.DataSetSetsAddressingAndEntersKeyRead : Prop :=
  ∀ (x : BitVec 3) (f x0 : Bool) (s : State),
    exec (.dataSet x f false x0) s = .next { s with autoInc := !f, commandMode := false } ∧
    exec (.dataSet x f true x0) s =
      .next { s with
        autoInc := !f
        commandMode := false
        readingKeys := true
        keyBitCounter := 0
        dioDir := .output
        dioOut := Config.dioPreshiftLevel s.draws
        draws := s.draws + 1 }

/-- spec/41_commands.md section 3 (conflict C4): every command byte `01xxxx1x`, not only 0x42, enters key-read mode
with the shift-out counter at 0 and DIO driven, ends command mode, and leaves RAM, address, display and pins SEG and
GRID alone; and no further CLK_RISE before an STB_RISE has any effect. -/
def Obligations.EveryReadKeysByteEntersKeyRead : Prop :=
  ∀ (b : Byte) (s : State), s.commandMode = true → topBits b = 1#2 → b.getLsbD 1 = true →
    ∃ t, dispatch b s = .next t ∧ t.readingKeys = true ∧ t.keyBitCounter = 0 ∧ t.dioDir = .output ∧
      t.commandMode = false ∧ t.autoInc = !b.getLsbD 2 ∧ t.ram = s.ram ∧ t.address = s.address ∧
      t.displayOn = s.displayOn ∧ t.seg = s.seg ∧ t.grid = s.grid ∧ t.keyData = s.keyData ∧
      ∀ dio rest, step { t with events := .clkRise dio :: rest } = .next { t with events := rest }

/-- R93: DISPLAY_CONTROL stores bit 3 in `displayOn` and changes nothing else: `commandMode` stays, and the pins keep
their levels. (That bits 5:4 are ignored is also the spec's decision D7.) -/
def Obligations.DisplayControlSetsDisplayOnOnly : Prop :=
  (∀ (x : BitVec 2) (e : Bool) (b : BitVec 3) (s : State),
    exec (.displayControl x e b) s = .next { s with displayOn := e }) ∧
  ∀ (b : Byte) (s : State), s.commandMode = true → topBits b = 2#2 →
    dispatch b s = .next { s with displayOn := b.getLsbD 3 }

/-- R95: ADDRESS_SET loads bits 3:0 unchanged, 14 and 15 too, clears `commandMode` and changes nothing else. -/
def Obligations.AddressSetLoadsAddress : Prop :=
  (∀ (x : BitVec 2) (a : BitVec 4) (s : State),
    exec (.addressSet x a) s = .next { s with address := a, commandMode := false }) ∧
  ∀ (b : Byte) (s : State), s.commandMode = true → topBits b = 3#2 →
    dispatch b s = .next { s with address := b.extractLsb' 0 4, commandMode := false }

/-- R97: DATA_WRITE below 14 stores the byte at `address`, leaves every other RAM byte, and with auto-increment moves
the address to (address + 1) mod 14; at 14 and 15 nothing at all changes. No other field changes. -/
def Obligations.DataWriteStoresAtAddress : Prop :=
  ∀ (d : Byte) (s : State),
    (s.address.toNat < 14 →
      ∃ m : Memory,
        exec (.dataWrite d) s =
          .next { s with
            ram := m
            address := if s.autoInc then BitVec.ofNat 4 ((s.address.toNat + 1) % 14) else s.address } ∧
        m.read s.address.toNat = d ∧ ∀ a, a ≠ s.address.toNat → m.read a = s.ram.read a) ∧
    (14 ≤ s.address.toNat → exec (.dataWrite d) s = .next s) ∧
    (s.commandMode = false → dispatch d s = exec (.dataWrite d) s)

/-- R96: ADDRESS_SET holds 14 and 15; every data byte that follows is dropped and the address does not move, until
another ADDRESS_SET byte completes. -/
def Obligations.AddressFourteenAndFifteenAreHeld : Prop :=
  (∀ (x : BitVec 2) (a : BitVec 4) (s : State), 14 ≤ a.toNat →
    ∃ t, exec (.addressSet x a) s = .next t ∧ t.address = a ∧ ∀ d, exec (.dataWrite d) t = .next t) ∧
  ∀ s t : State, step s = .next t → 14 ≤ s.address.toNat →
    (t.address = s.address ∧ t.ram = s.ram) ∨
    ∃ b, CompletesByte s b ∧ s.commandMode = true ∧ topBits b = 3#2 ∧ t.address = b.extractLsb' 0 4

/-- R88: the dispatch of a byte, by its two top bits in command mode and as data outside it, with the operands the
formats R61 to R65 give. -/
def Obligations.DispatchFollowsTheTopTwoBits : Prop :=
  ∀ (b : Byte) (s : State),
    (s.commandMode = true →
      (topBits b = 0#2 → dispatch b s = exec (.displayModeSet (b.extractLsb' 0 6)) s) ∧
      (topBits b = 1#2 → dispatch b s =
        exec (.dataSet (b.extractLsb' 3 3) (b.getLsbD 2) (b.getLsbD 1) (b.getLsbD 0)) s) ∧
      (topBits b = 2#2 → dispatch b s =
        exec (.displayControl (b.extractLsb' 4 2) (b.getLsbD 3) (b.extractLsb' 0 3)) s) ∧
      (topBits b = 3#2 → dispatch b s = exec (.addressSet (b.extractLsb' 4 2) (b.extractLsb' 0 4)) s)) ∧
    (s.commandMode = false → dispatch b s = exec (.dataWrite b) s)

/-! ### The serial link -/

/-- A step runs the decoded instruction: when the eighth bit of a byte arrives and the byte decodes to the well-formed
instruction `i`, the step is `exec i` on the state with the event taken and the accumulator cleared (R77, R78, R88;
that H reads as 1 is the spec's decision D12). -/
def Obligations.StepRunsTheDecodedInstruction : Prop :=
  ∀ (s : State) (dio : Level) (rest : List Event) (i : Instr),
    s.events = .clkRise dio :: rest → s.readingKeys = false → s.dioDir = .input → s.bitIndex = 7 →
    decode s.commandMode [s.currentByte ||| (if dio = .H then 0x80#8 else 0#8)] = .ok (i, []) →
    WellFormed s.commandMode i = true →
    step s = exec i { s with events := rest, currentByte := 0, bitIndex := 0 }

/-- The word the host's check places runs as the next step, in the mode the state is in; in command mode it is the
instruction `decodeTableWord` reads (the model's own convention, notes/assumptions/5.md). -/
def Obligations.FetchWordRunsItsInstruction : Prop :=
  ∀ (s : State) (w : Nat),
    step (s.withFetchWord 8 w) =
      exec (decodeByte s.commandMode (BitVec.ofNat 8 w))
        { s with readingKeys := false, keyBitCounter := 0, dioDir := .input, currentByte := 0, bitIndex := 0 } ∧
    decodeTableWord 8 w = some (decodeByte true (BitVec.ofNat 8 w))

/-- R75: STB_RISE restarts the framing, enters command mode, ends key reading and releases DIO, changes nothing else,
and is idempotent with an STB_FALL between. -/
def Obligations.StbRiseResetsTheFrame : Prop :=
  (∀ (s : State) (rest : List Event), s.events = .stbRise :: rest →
    step s = .next { s with
      events := rest
      currentByte := 0
      bitIndex := 0
      commandMode := true
      readingKeys := false
      keyBitCounter := 0
      dioDir := .input }) ∧
  ∀ (s : State) (rest : List Event),
    runSteps 3 { s with events := .stbRise :: .stbFall :: .stbRise :: rest } =
      runSteps 1 { s with events := .stbRise :: rest }

/-- spec/40_serial_link.md section 1, the spec's decision D5: STB_FALL changes nothing. -/
def Obligations.StbFallChangesNothing : Prop :=
  ∀ (s : State) (rest : List Event), s.events = .stbFall :: rest → step s = .next { s with events := rest }

/-- spec/40_serial_link.md section 2 (R77; that H reads as 1 is the spec's decision D12): a CLK_RISE that does not
complete a byte puts the sampled bit at position `bitIndex`, the lower bits being those received before, and changes
nothing else. -/
def Obligations.ClkRiseShiftsOneBitIn : Prop :=
  ∀ (s : State) (dio : Level) (rest : List Event), Inv s → s.events = .clkRise dio :: rest →
    s.readingKeys = false → s.bitIndex.toNat < 7 →
    ∃ c : Byte,
      step s = .next { s with events := rest, currentByte := c, bitIndex := s.bitIndex + 1 } ∧
      c.getLsbD s.bitIndex.toNat = decide (dio = .H) ∧
      ∀ k, k ≠ s.bitIndex.toNat → c.getLsbD k = s.currentByte.getLsbD k

/-- spec/40_serial_link.md section 2 (R79, inferred there from R77): in key-read mode a CLK_RISE changes nothing,
whatever stands on DIO. -/
def Obligations.ClkRiseIsIgnoredInKeyRead : Prop :=
  ∀ (s : State) (dio : Level) (rest : List Event), s.events = .clkRise dio :: rest → s.readingKeys = true →
    step s = .next { s with events := rest }

/-- R84 and R85: CLK_FALL in key-read mode drives bit `keyBitCounter mod 8` of `keyData[keyBitCounter div 8]` on DIO
and counts, does nothing once the report is exhausted, and does nothing outside key-read mode. Where the invariants
hold, DIO is low after the 24th edge. -/
def Obligations.ClkFallDrivesOneReportBit : Prop :=
  ∀ (s : State) (rest : List Event), s.events = .clkFall :: rest →
    (s.readingKeys = true → ∀ h : s.keyBitCounter.toNat / 8 < 3,
      step s = .next { s with
        events := rest
        dioOut := if s.keyData[s.keyBitCounter.toNat / 8].getLsbD (s.keyBitCounter.toNat % 8) then .H else .L
        keyBitCounter := s.keyBitCounter + 1 }) ∧
    (s.readingKeys = true → ¬ s.keyBitCounter.toNat / 8 < 3 → step s = .next { s with events := rest }) ∧
    (s.readingKeys = false → step s = .next { s with events := rest }) ∧
    (Inv s → s.readingKeys = true → s.keyBitCounter = 23 →
      ∃ t, step s = .next t ∧ t.keyBitCounter = 24 ∧ t.dioOut = .L)

/-- R86: with the report exhausted a CLK_FALL changes nothing, and until an STB_RISE no event moves the counter,
changes the level of DIO or ends the read; the STB_RISE releases DIO, and key-read mode is then entered only by a new
key-read command. -/
def Obligations.ExhaustedReportHoldsUntilStbRise : Prop :=
  (∀ s t : State, s.readingKeys = true → s.keyBitCounter = 24 → step s = .next t →
    (∀ rest, s.events ≠ .stbRise :: rest) →
    t.readingKeys = true ∧ t.keyBitCounter = 24 ∧ t.pins.dio = s.pins.dio) ∧
  (∀ (s : State) (rest : List Event), s.readingKeys = true → s.keyBitCounter = 24 → s.events = .clkFall :: rest →
    step s = .next { s with events := rest }) ∧
  (∀ (s : State) (rest : List Event), s.events = .stbRise :: rest →
    ∃ t, step s = .next t ∧ t.readingKeys = false ∧ t.pins.dio = none) ∧
  ∀ s t : State, s.readingKeys = false → step s = .next t → t.readingKeys = true →
    ∃ b, CompletesByte s b ∧ s.commandMode = true ∧ topBits b = 1#2 ∧ b.getLsbD 1 = true

/-- The key report on the wire (spec/20_memory.md section 3, R44; spec/40_serial_link.md section 3). With the counter at
0, shift-out edge n drives bit (n mod 8) of keyData[n div 8]; from the 25th edge on DIO holds (R86). For the shift-out
edges alone, and for the pulses of `R (n + 1)`, which are what a host makes: that `R` is these events is the spec's
decision D13 (R73, notes/assumptions/18.md), and that their CLK_RISEs do nothing is R79. -/
def Obligations.KeyReportStreamsLeastSignificantBitFirst : Prop :=
  ∀ (s : State) (n : Nat) (es rest : List Event), s.readingKeys = true → s.keyBitCounter = 0 →
    (∃ host, es = rEvents host (n + 1)) ∨ es = List.replicate (n + 1) .clkFall → s.events = es ++ rest →
    (∀ h : n < 24,
      runSteps es.length s = .next { s with
        events := rest
        keyBitCounter := BitVec.ofNat 5 (n + 1)
        dioOut := if (s.keyData[n / 8]'(by omega)).getLsbD (n % 8) then .H else .L }) ∧
    (24 ≤ n →
      runSteps es.length s = .next { s with
        events := rest
        keyBitCounter := 24
        dioOut := if s.keyData[2].getLsbD 7 then .H else .L })

/-- spec/40_serial_link.md section 3 (R87, which the spec derives): what the host samples, whatever ticks, CLK_RISEs and
STB_FALLs come between the edges. Sample n is bit (n mod 8) of keyData[n div 8] as the report stood at shift-out edge n
(the state `u`); from sample 24 on the level is the one there was; and as long as no shift-out edge and no STB_RISE
comes, DIO keeps its level, so before the first edge it is the free draw (decision D9, notes/assumptions/1.md). That a
CLK_RISE does nothing here is R79, and that an STB_FALL does nothing is the spec's decision D5 (8.md). -/
def Obligations.HostSamplesTheReportAsItStood : Prop :=
  (∀ (s : State) (pre mid rest : List Event), s.readingKeys = true → s.dioDir = .output → s.keyBitCounter = 0 →
    .stbRise ∉ pre → .stbRise ∉ mid → .clkFall ∉ mid → s.events = pre ++ .clkFall :: (mid ++ rest) →
    ∃ u t, runSteps pre.length s = .next u ∧ runSteps (pre.length + 1 + mid.length) s = .next t ∧
      (∀ h : pre.count .clkFall < 24,
        t.pins.dio = some (if (u.keyData[pre.count .clkFall / 8]'(by omega)).getLsbD (pre.count .clkFall % 8)
          then .H else .L)) ∧
      (24 ≤ pre.count .clkFall → t.pins.dio = u.pins.dio)) ∧
  ∀ (s : State) (mid rest : List Event), s.readingKeys = true → .stbRise ∉ mid → .clkFall ∉ mid →
    s.events = mid ++ rest → ∃ t, runSteps mid.length s = .next t ∧ t.pins.dio = s.pins.dio

/-- `KEYREAD` whole (spec/30_encoding.md section 8, R74): from a byte boundary in command mode, the byte 0x42 is received
(R57, R77, R78) and enters key-read mode (R91), after pulse p of `R 24` DIO shows bit (p mod 8) of keyData[p div 8]
(R84), and the STB_RISE at the end (R75) leaves DIO released and command mode on, with auto-increment on and nothing
else changed but the two fields behind the free draw. Rests on the spec's decisions D5 (the STB_FALL it begins with does
nothing, notes/assumptions/8.md), D9 (the draw, 1.md), D12 (H reads as 1, 10.md) and D13 (the expansion, 18.md). -/
def Obligations.KeyreadTransactionReturnsTheReport : Prop :=
  ∀ (s : State) (host : Level) (rest : List Event), AtByteBoundary s → s.commandMode = true →
    s.events = keyReadEvents host ++ rest →
    (∀ (p : Nat) (h : p < 24), ∃ t, runSteps (17 + 2 * (p + 1)) s = .next t ∧
      t.pins.dio = some (if (s.keyData[p / 8]'(by omega)).getLsbD (p % 8) then .H else .L)) ∧
    runSteps 66 s = .next { s with
      events := rest
      autoInc := true
      commandMode := true
      readingKeys := false
      keyBitCounter := 0
      dioDir := .input
      dioOut := if s.keyData[2].getLsbD 7 then .H else .L
      draws := s.draws + 1 }

/-- The serial link carries bytes (spec/30_encoding.md section 1, `W b` of R73; D12 and D13 are the spec's decisions):
from a byte boundary, the sixteen events of `W b` are exactly the dispatch of `b`. -/
def Obligations.SerialByteIsDispatchedWhole : Prop :=
  ∀ (s : State) (b : Byte) (rest : List Event), AtByteBoundary s → s.events = wEvents b ++ rest →
    runSteps 16 s = dispatch b { s with events := rest }

/-- spec/30_encoding.md section 1 (R58): after an STB_RISE, in any state whatever, partial byte and key read
included, the first byte is read as a command. The byte is clocked in with no STB_FALL before it, so while STB is high,
which is the spec's decision D5 (R80, notes/assumptions/8.md); that `W b` is these events and that H reads as 1 are its
decisions D13 and D12 (notes/assumptions/18.md, 10.md). -/
def Obligations.FirstByteAfterStbRiseIsACommand : Prop :=
  ∀ (s : State) (b : Byte) (rest : List Event), s.events = .stbRise :: (wEvents b ++ rest) →
    runSteps 17 s = exec (decodeByte true b)
      { s with
        events := rest
        currentByte := 0
        bitIndex := 0
        commandMode := true
        readingKeys := false
        keyBitCounter := 0
        dioDir := .input }

/-- spec/20_memory.md section 3 (R45) with R97 and R98: in data mode with auto-increment, up to 14 bytes go to
ascending addresses modulo 14, and every other RAM byte is unchanged. From the bytes to the events of `W` rests on the
spec's decisions D12 and D13 (notes/assumptions/10.md, 18.md). -/
def Obligations.DataBytesFillAscendingAddresses : Prop :=
  ∀ (s : State) (bs : List Byte) (rest : List Event), AtByteBoundary s → s.commandMode = false →
    s.autoInc = true → s.address.toNat < 14 → bs.length ≤ 14 → s.events = bs.flatMap wEvents ++ rest →
    ∃ m : Memory,
      runSteps (16 * bs.length) s = .next { s with
        events := rest
        ram := m
        address := BitVec.ofNat 4 ((s.address.toNat + bs.length) % 14) } ∧
      (∀ (k : Nat) (h : k < bs.length), m.read ((s.address.toNat + k) % 14) = bs[k]) ∧
      ∀ a, (∀ k, k < bs.length → a ≠ (s.address.toNat + k) % 14) → m.read a = s.ram.read a

/-! ### The multiplex engine -/

/-- R100: a tick runs exactly one phase and switches to the other, whatever the display and the serial side are
doing; the first phase after reset is a scan. -/
def Obligations.TickAlternatesThePhases : Prop :=
  State.reset.phase = .scan ∧
  ∀ (s : State) (k1 : Vector Level 5) (rest : List Event), s.events = .tick k1 :: rest →
    (s.phase = .scan → step s = .next { scanPhase k1 { s with events := rest } with phase := .display }) ∧
    (s.phase = .display → step s = .next { displayPhase { s with events := rest } with phase := .scan })

/-- R102 and R104: a scan phase blanks the four grids and rebuilds the report: exactly the bits of the scan lines whose
sample read L are 1, whatever the report was. -/
def Obligations.ScanPhaseRebuildsTheReport : Prop :=
  ∀ (s : State) (k1 : Vector Level 5) (rest : List Event), s.events = .tick k1 :: rest → s.phase = .scan →
    ∃ t, step s = .next t ∧ (∀ g : Fin 4, t.grid[g] = .H) ∧
      t.keyData[0] = (if k1[0] = .L then 0x02#8 else 0#8) ||| (if k1[1] = .L then 0x10#8 else 0#8) ∧
      t.keyData[1] = (if k1[2] = .L then 0x02#8 else 0#8) ||| (if k1[3] = .L then 0x10#8 else 0#8) ∧
      t.keyData[2] = (if k1[4] = .L then 0x02#8 else 0#8)

/-- spec/42_multiplex.md section 2 (R103, R105; the scan lines on SEG1 to SEG5 are the spec's decision D3): where a scan
phase leaves the pins, and that it changes nothing but the pins, the report and the phase. -/
def Obligations.ScanPhaseLeavesThePins : Prop :=
  ∀ (s : State) (k1 : Vector Level 5) (rest : List Event), s.events = .tick k1 :: rest → s.phase = .scan →
    ∃ report : Vector Byte 3,
      step s = .next { s with
        events := rest
        phase := .display
        keyData := report
        grid := #v[.H, .H, .H, .H]
        seg := #v[.H, .H, .H, .H, .L, s.seg[5], s.seg[6], s.seg[7]] }

/-- R106: key scanning does not depend on the display nor on a key read in progress. Of any two ticks in a row one is
a scan, and two states that have only the phase in common get the same report from the same samples. -/
def Obligations.KeyScanningIsIndependent : Prop :=
  (∀ (s u : State) (k1 : Vector Level 5) (rest more : List Event),
    s.phase = .scan → u.phase = .scan → s.events = .tick k1 :: rest → u.events = .tick k1 :: more →
    ∃ t v, step s = .next t ∧ step u = .next v ∧ t.keyData = v.keyData ∧ t.phase = .display) ∧
  ∀ (s : State) (k1 : Vector Level 5) (rest : List Event), s.phase = .display → s.events = .tick k1 :: rest →
    ∃ t, step s = .next t ∧ t.phase = .scan ∧ t.keyData = s.keyData

/-- R107: with the display off a display phase changes no pin and no field but the phase, and since the scan before
left every grid high, nothing is lit. -/
def Obligations.DisplayPhaseDoesNothingWhenOff : Prop :=
  ∀ (s : State) (k1 : Vector Level 5) (rest : List Event), s.events = .tick k1 :: rest → s.phase = .display →
    s.displayOn = false →
    step s = .next { s with events := rest, phase := .scan } ∧ (Inv s → ∀ g : Fin 4, s.grid[g] = .H)

/-- A fact of the helpers `evenAddress`, `oddAddress` and `segmentPattern` alone (the formula of R108): the addresses
2g and 2g + 1, and pattern bits 4:0 are even bits 4:0, pattern bits 7:5 odd bits 5:3. What the display tick does with
them is said by `EnabledDisplayTickUsesEightBitsOfItsTwoBytes` and `DisplayPhaseShowsTheActiveGrid`. -/
def Obligations.PatternTakesFiveEvenAndThreeOddBits : Prop :=
  (∀ (s : State) (g : Fin 4), memRead (evenAddress g) s = s.ram.read (2 * g.val) ∧
    memRead (oddAddress g) s = s.ram.read (2 * g.val + 1)) ∧
  ∀ (even odd : Byte) (i : Nat),
    (i < 5 → (segmentPattern even odd).getLsbD i = even.getLsbD i) ∧
    (5 ≤ i → i < 8 → (segmentPattern even odd).getLsbD i = odd.getLsbD (i - 2))

/-- spec/42_multiplex.md section 3 (R108 to R111; pin numbers and polarity are the spec's decision D4): an enabled
display phase puts even bits 4:0 on SEG1 to SEG5 and odd bits 5:3 on SEG6 to SEG8, lights GRID(activeGrid+1) and no
other, moves to the next grid modulo 4, and changes nothing else. -/
def Obligations.DisplayPhaseShowsTheActiveGrid : Prop :=
  ∀ (s : State) (k1 : Vector Level 5) (rest : List Event), s.events = .tick k1 :: rest → s.phase = .display →
    s.displayOn = true →
    ∃ (seg : Vector Level 8) (grid : Vector Level 4) (g : Fin 4),
      step s = .next { s with events := rest, phase := .scan, seg := seg, grid := grid, activeGrid := g } ∧
      (∀ i : Fin 8, i.val < 5 →
        seg[i] = if (s.ram.read (2 * s.activeGrid.val)).getLsbD i.val then .H else .L) ∧
      (∀ i : Fin 8, 5 ≤ i.val →
        seg[i] = if (s.ram.read (2 * s.activeGrid.val + 1)).getLsbD (i.val - 2) then .H else .L) ∧
      grid[s.activeGrid] = .L ∧ (∀ h : Fin 4, h ≠ s.activeGrid → grid[h] = s.grid[h]) ∧
      g.val = (s.activeGrid.val + 1) % 4

/-- spec/42_multiplex.md section 3 (R108; that pattern bit i is pin SEG(i+1), 1 as H, is the spec's decision D4,
notes/assumptions/7.md): an enabled display tick shows the pattern of ram[2g] and ram[2g+1], and no other RAM bit than
the eight of the pattern contributes to anything: with any other RAM that agrees on these, the tick does the same. -/
def Obligations.EnabledDisplayTickUsesEightBitsOfItsTwoBytes : Prop :=
  ∀ (s : State) (k1 : Vector Level 5) (rest : List Event), s.events = .tick k1 :: rest → s.phase = .display →
    s.displayOn = true →
    ∃ t, step s = .next t ∧
      (∀ i : Fin 8, t.seg[i] =
        if (segmentPattern (s.ram.read (2 * s.activeGrid.val)) (s.ram.read (2 * s.activeGrid.val + 1))).getLsbD i.val
        then .H else .L) ∧
      ∀ m : Memory,
        (∀ i, i < 5 →
          (m.read (2 * s.activeGrid.val)).getLsbD i = (s.ram.read (2 * s.activeGrid.val)).getLsbD i) →
        (∀ i, 3 ≤ i → i < 6 →
          (m.read (2 * s.activeGrid.val + 1)).getLsbD i = (s.ram.read (2 * s.activeGrid.val + 1)).getLsbD i) →
        step { s with ram := m } = .next { t with ram := m }

/-- spec/42_multiplex.md section 4 (R112): with the display on, eight ticks from a scan phase light each grid exactly
once, in the order of `activeGrid`, each only until the next scan phase, which leaves every grid high. -/
def Obligations.EightTicksLightEachGridOnce : Prop :=
  ∀ (s : State) (k : Nat → Vector Level 5) (rest : List Event), s.displayOn = true → s.phase = .scan →
    s.events = (List.range 8).map (fun i => .tick (k i)) ++ rest →
    (∀ j, j < 4 →
      (∃ t, runSteps (2 * j + 1) s = .next t ∧ ∀ g : Fin 4, t.grid[g] = .H) ∧
      ∃ t, runSteps (2 * j + 2) s = .next t ∧
        ∀ g : Fin 4, t.grid[g] = .L ↔ g.val = (s.activeGrid.val + j) % 4) ∧
    ∃ t, runSteps 8 s = .next t ∧ t.activeGrid = s.activeGrid ∧ t.phase = .scan ∧ t.events = rest

/-- spec/70_reset_and_hazards.md section 3 (R148): switching the display off touches no pin; the next scan phase blanks
the grids, and the display phase after it changes nothing. -/
def Obligations.DisplayOffTakesEffectAtTheNextScan : Prop :=
  ∀ (s : State) (b : Byte) (k k' : Vector Level 5) (rest : List Event), s.commandMode = true → s.phase = .scan →
    s.events = .tick k :: .tick k' :: rest → topBits b = 2#2 → b.getLsbD 3 = false →
    ∃ t u v, dispatch b s = .next t ∧ t.grid = s.grid ∧ t.seg = s.seg ∧
      runSteps 1 t = .next u ∧ (∀ g : Fin 4, u.grid[g] = .H) ∧
      runSteps 2 t = .next v ∧ v.grid = u.grid ∧ v.seg = u.seg ∧ v.activeGrid = s.activeGrid

/-- spec/70_reset_and_hazards.md section 3 (R143): the report is read live. A scan between two shift-out edges replaces
it without moving the counter, and the next edge drives a bit of the new report. -/
def Obligations.ScanBetweenEdgesMixesTheReport : Prop :=
  ∀ (s t : State) (k1 : Vector Level 5) (rest : List Event), s.readingKeys = true → s.phase = .scan →
    s.events = .tick k1 :: .clkFall :: rest → step s = .next t →
    t.keyBitCounter = s.keyBitCounter ∧ t.dioOut = s.dioOut ∧ t.readingKeys = true ∧
    ∀ h : s.keyBitCounter.toNat / 8 < 3, ∃ u, runSteps 2 s = .next u ∧
      u.dioOut = if t.keyData[s.keyBitCounter.toNat / 8].getLsbD (s.keyBitCounter.toNat % 8) then .H else .L

/-! ### The whole machine -/

/-- R116: no event and no instruction faults or is refused, in any state. -/
def Obligations.EveryEventCompletes : Prop :=
  (∀ s : State, Completes (step s)) ∧ (∀ (e : Event) (s : State), Completes (handle e s)) ∧
  ∀ (i : Instr) (s : State), Completes (exec i s)

/-- spec/20_memory.md section 6 (R52): the events happen one at a time and in their order: a step is what the first
pending event does, on the state the one before left, and the events after it are still to come. With none pending a
step changes nothing. That the events wait in a list in the state, and the idle step, are the model's
(notes/assumptions/2.md). -/
def Obligations.EventsHappenOneByOneInOrder : Prop :=
  (∀ (s : State) (e : Event) (rest : List Event), s.events = e :: rest →
    step s = handle e { s with events := rest } ∧ ∃ t, step s = .next t ∧ t.events = rest) ∧
  ∀ s : State, s.events = [] → step s = .next s

/-- The invariants of R35 (items 1 to 7) and the canonical form of the RAM (the model's) hold after reset. The reset
values rest on the spec's decision D2. -/
def Obligations.InvHoldsAtReset : Prop := Inv State.reset

/-- spec/10_state.md section 7 (R35, items 1 to 7, which the spec derives; the RAM's canonical form is the model's):
every event keeps the invariants. -/
def Obligations.EveryStepKeepsInv : Prop :=
  ∀ s t : State, Inv s → step s = .next t → Inv t

/-- R35, item 8, as a property of one step (and R15): the address comes to be 14 or 15 only by an ADDRESS_SET byte; no
data write takes it there. -/
def Obligations.AddressReachesFourteenOnlyByAddressSet : Prop :=
  ∀ s t : State, step s = .next t → 14 ≤ t.address.toNat → t.address ≠ s.address →
    ∃ b, CompletesByte s b ∧ s.commandMode = true ∧ topBits b = 3#2 ∧ t.address = b.extractLsb' 0 4

/-- spec/10_state.md R14 and spec/20_memory.md R40 and R48, as one property of a step: the RAM changes only in the
event that completes a data byte, at the location in `address`, below 14, and only there. -/
def Obligations.RamChangesOnlyByADataByte : Prop :=
  ∀ s t : State, step s = .next t → t.ram ≠ s.ram →
    ∃ b, CompletesByte s b ∧ s.commandMode = false ∧ s.address.toNat < 14 ∧
      t.ram.read s.address.toNat = b ∧ ∀ a, a ≠ s.address.toNat → t.ram.read a = s.ram.read a

/-- spec/10_state.md R16 and R17, their writers: `autoInc` changes only by a DATA_SET byte, `displayOn` only by a
DISPLAY_CONTROL byte. -/
def Obligations.ControlFlagsHaveOneWriterEach : Prop :=
  ∀ s t : State, step s = .next t →
    (t.autoInc ≠ s.autoInc → ∃ b, CompletesByte s b ∧ s.commandMode = true ∧ topBits b = 1#2) ∧
    (t.displayOn ≠ s.displayOn → ∃ b, CompletesByte s b ∧ s.commandMode = true ∧ topBits b = 2#2)

/-- spec/41_commands.md section 6 (R99) and spec/60_exceptions.md section 5 (R124): what moves the serial side between
command, data and key-read mode. Only an STB_RISE returns to command mode or ends key-read mode. -/
def Obligations.ModeChangesOnlyAsTheSpecSays : Prop :=
  ∀ s t : State, step s = .next t →
    (s.commandMode = false → t.commandMode = true → ∃ rest, s.events = .stbRise :: rest) ∧
    (s.commandMode = true → t.commandMode = false →
      ∃ b, CompletesByte s b ∧ (topBits b = 1#2 ∨ topBits b = 3#2)) ∧
    (s.readingKeys = true → t.readingKeys = false → ∃ rest, s.events = .stbRise :: rest) ∧
    (s.readingKeys = false → t.readingKeys = true →
      ∃ b, CompletesByte s b ∧ s.commandMode = true ∧ topBits b = 1#2 ∧ b.getLsbD 1 = true) ∧
    (Inv s → serialMode s ≠ none ∧ serialMode t ≠ none)

/-- spec/10_state.md R27, its writers: the level the block drives on DIO changes only at a shift-out edge or when a
key-read command switches DIO to output; so it holds from each of these to the next. -/
def Obligations.DioLevelChangesOnlyInKeyRead : Prop :=
  ∀ s t : State, step s = .next t → t.dioOut ≠ s.dioOut →
    (∃ rest, s.events = .clkFall :: rest ∧ s.readingKeys = true ∧ s.keyBitCounter.toNat < 24) ∨
    ∃ b, CompletesByte s b ∧ s.commandMode = true ∧ topBits b = 1#2 ∧ b.getLsbD 1 = true

/-- spec/10_state.md section 2, the writers of R18, R24, R25, R28 and R29: no host event changes what the multiplex
engine owns: phase, active grid, report, segment and grid pins. -/
def Obligations.HostEventsLeaveTheMultiplexSide : Prop :=
  ∀ (s t : State) (e : Event) (rest : List Event), s.events = e :: rest → e.fromHost = true → step s = .next t →
    t.phase = s.phase ∧ t.activeGrid = s.activeGrid ∧ t.keyData = s.keyData ∧ t.seg = s.seg ∧ t.grid = s.grid

/-- spec/10_state.md section 2, the writers of R14 to R17, R19 to R23, R26 and R27: no tick changes RAM, address,
control flags, modes, framing, counter or DIO. -/
def Obligations.TicksLeaveTheSerialSide : Prop :=
  ∀ (s t : State) (k1 : Vector Level 5) (rest : List Event), s.events = .tick k1 :: rest → step s = .next t →
    t.ram = s.ram ∧ t.address = s.address ∧ t.autoInc = s.autoInc ∧ t.displayOn = s.displayOn ∧
    t.commandMode = s.commandMode ∧ t.readingKeys = s.readingKeys ∧ t.currentByte = s.currentByte ∧
    t.bitIndex = s.bitIndex ∧ t.keyBitCounter = s.keyBitCounter ∧ t.dioDir = s.dioDir ∧ t.dioOut = s.dioOut ∧
    t.draws = s.draws

/-- From the readers and writers of the fields (spec/10_state.md section 2) and the events' rules (spec/40_serial_link.md,
spec/41_commands.md, spec/42_multiplex.md section 2), by inference: a scan tick and a host event next to it lead to the
same state in either order, but for a shift-out edge, which reads the report. (R119 only admits both orders.) Where the
event completes a key-read command, both orders make the same free draw, which is the model's choice
(notes/assumptions/1.md). -/
def Obligations.ScanTickCommutesWithHostEvents : Prop :=
  ∀ (s : State) (k1 : Vector Level 5) (e : Event) (rest : List Event), e.fromHost = true → s.phase = .scan →
    ¬ (e = .clkFall ∧ s.readingKeys = true) →
    runSteps 2 { s with events := .tick k1 :: e :: rest } = runSteps 2 { s with events := e :: .tick k1 :: rest }

/-- spec/70_reset_and_hazards.md section 1, the table of R135: `phase` and the grids are the source's values, the others
the spec's decision D2. `dioOut`, which the table leaves unspecified, is not driven. -/
def Obligations.ResetIsTheTable : Prop :=
  (∀ a, State.reset.ram.read a = 0x00#8) ∧ State.reset.address = 0 ∧ State.reset.autoInc = false ∧
  State.reset.displayOn = false ∧ State.reset.activeGrid = 0 ∧ State.reset.commandMode = true ∧
  State.reset.readingKeys = false ∧ State.reset.currentByte = 0x00#8 ∧ State.reset.bitIndex = 0 ∧
  State.reset.keyBitCounter = 0 ∧ (∀ i : Fin 3, State.reset.keyData[i] = 0x00#8) ∧
  State.reset.phase = .scan ∧ State.reset.dioDir = .input ∧ State.reset.pins.dio = none ∧
  (∀ i : Fin 8, State.reset.seg[i] = .L) ∧ ∀ g : Fin 4, State.reset.grid[g] = .H
end

