-- ==== Sys2Proof/Laws/Memory.lean ====
section
/-! SUPPORT. The laws of the display RAM: a read after a write, the canonical form, and that the form makes equal
memories equal data. -/

namespace Sys2Proof.Machine

@[simp] theorem Memory.read_nil (a : Nat) : Memory.read [] a = Memory.blank := rfl

theorem Memory.read_cons (c : Host.Cell) (m : Memory) (a : Nat) :
    Memory.read (c :: m) a = if c.1 = a then c.2 else m.read a := rfl

/-- An address that no entry has reads as blank. -/
theorem Memory.read_of_forall_ne {m : Memory} {a : Nat} (h : ∀ c ∈ m, c.1 ≠ a) :
    m.read a = Memory.blank := by
  induction m with
  | nil => rfl
  | cons c m ih =>
    rw [Memory.read_cons, if_neg (h c (by simp)), ih fun d hd => h d (by simp [hd])]

theorem Memory.mem_erase {m : Memory} {a : Nat} {c : Host.Cell} :
    c ∈ m.erase a ↔ c ∈ m ∧ c.1 ≠ a := by
  simp [Memory.erase]

theorem Memory.mem_place {m : Memory} {a : Nat} {v : Byte} {c : Host.Cell} :
    c ∈ m.place a v ↔ c = (a, v) ∨ c ∈ m := by
  induction m with
  | nil => simp [Memory.place]
  | cons d m ih =>
    rw [Memory.place]
    split
    · simp
    · simp only [List.mem_cons, ih]
      tauto

theorem Memory.read_erase (m : Memory) (a b : Nat) :
    (m.erase a).read b = if b = a then Memory.blank else m.read b := by
  split
  · subst b
    exact Memory.read_of_forall_ne fun c hc => (Memory.mem_erase.1 hc).2
  · rename_i hne
    induction m with
    | nil => rfl
    | cons c m ih =>
      unfold Memory.erase at ih ⊢
      by_cases hc : c.1 = a
      · rw [List.filter_cons_of_neg (by simp [hc]), ih, Memory.read_cons,
          if_neg (by rintro rfl; exact hne hc)]
      · rw [List.filter_cons_of_pos (by simp [hc]), Memory.read_cons, Memory.read_cons, ih]

/-- Placing an entry at an address that has none puts it there and leaves every other address alone. -/
theorem Memory.read_place {m : Memory} {a : Nat} (v : Byte) (h : ∀ c ∈ m, c.1 ≠ a) (b : Nat) :
    (m.place a v).read b = if b = a then v else m.read b := by
  induction m with
  | nil => simp [Memory.place, Memory.read_cons, eq_comm]
  | cons c m ih =>
    have hc : c.1 ≠ a := h c (by simp)
    rw [Memory.place]
    split
    · simp [Memory.read_cons, eq_comm]
    · rw [Memory.read_cons, ih fun d hd => h d (by simp [hd]), Memory.read_cons]
      by_cases hb : b = a
      · subst b
        simp [hc]
      · simp [hb]

/-- A read after a write gives the value written, and every other address reads as before; on any list, canonical
or not. -/
theorem Memory.read_write (m : Memory) (a : Nat) (v : Byte) (b : Nat) :
    (m.write a v).read b = if b = a then v else m.read b := by
  rw [Memory.write]
  split
  · rename_i hv
    rw [Memory.read_erase, hv]
  · rw [Memory.read_place v (fun c hc => (Memory.mem_erase.1 hc).2), Memory.read_erase]
    split <;> rfl

@[simp] theorem Memory.read_write_self (m : Memory) (a : Nat) (v : Byte) :
    (m.write a v).read a = v := by
  rw [Memory.read_write, if_pos rfl]

theorem Memory.read_write_of_ne (m : Memory) {a b : Nat} (v : Byte) (h : b ≠ a) :
    (m.write a v).read b = m.read b := by
  rw [Memory.read_write, if_neg h]

theorem Memory.wf_nil : Memory.wf [] := ⟨List.Pairwise.nil, by simp⟩

theorem Memory.wf_erase {m : Memory} (a : Nat) (h : m.wf) : (m.erase a).wf :=
  ⟨h.1.filter _, fun c hc => h.2 c (Memory.mem_erase.1 hc).1⟩

theorem Memory.wf_place {m : Memory} {a : Nat} {v : Byte} (h : m.wf) (hm : ∀ c ∈ m, c.1 ≠ a)
    (ha : a < Config.ramSize) (hv : v ≠ Memory.blank) : (m.place a v).wf := by
  refine ⟨?_, fun c hc => ?_⟩
  · induction m with
    | nil => simp [Memory.place]
    | cons c m ih =>
      have hp := List.pairwise_cons.1 h.1
      have hc : c.1 ≠ a := hm c (by simp)
      rw [Memory.place]
      split
      · rename_i hlt
        refine List.pairwise_cons.2 ⟨fun d hd => ?_, h.1⟩
        rcases List.mem_cons.1 hd with rfl | hd
        · exact hlt
        · exact hlt.trans (hp.1 d hd)
      · rename_i hge
        refine List.pairwise_cons.2 ⟨fun d hd => ?_, ih ⟨hp.2, fun d hd => h.2 d (by simp [hd])⟩
          fun d hd => hm d (by simp [hd])⟩
        rcases Memory.mem_place.1 hd with rfl | hd
        · show c.1 < a
          omega
        · exact hp.1 d hd
  · rcases Memory.mem_place.1 hc with rfl | hc
    · exact ⟨ha, hv⟩
    · exact h.2 c hc

/-- Storing a byte at an address that has storage keeps the canonical form. -/
theorem Memory.wf_write {m : Memory} {a : Nat} (v : Byte) (ha : a < Config.ramSize) (h : m.wf) :
    (m.write a v).wf := by
  rw [Memory.write]
  split
  · exact Memory.wf_erase a h
  · rename_i hv
    exact Memory.wf_place (Memory.wf_erase a h) (fun c hc => (Memory.mem_erase.1 hc).2) ha hv

/-- The canonical form is canonical: two memories in it that read the same everywhere are the same list. -/
theorem Memory.eq_of_read_eq {m n : Memory} (hm : m.wf) (hn : n.wf) (h : ∀ a, m.read a = n.read a) :
    m = n := by
  have below {c : Host.Cell} {k : Memory} (hk : Memory.wf (c :: k)) {a : Nat} (ha : a ≤ c.1) :
      Memory.read k a = Memory.blank :=
    Memory.read_of_forall_ne fun d hd => by
      have := (List.pairwise_cons.1 hk.1).1 d hd
      omega
  have tail {c : Host.Cell} {k : Memory} (hk : Memory.wf (c :: k)) : Memory.wf k :=
    ⟨(List.pairwise_cons.1 hk.1).2, fun d hd => hk.2 d (by simp [hd])⟩
  have head {c : Host.Cell} {k : Memory} (hk : Memory.wf (c :: k)) : c.2 ≠ Memory.blank :=
    (hk.2 c (by simp)).2
  induction m generalizing n with
  | nil =>
    cases n with
    | nil => rfl
    | cons d n => exact absurd (by simpa [Memory.read_cons] using (h d.1).symm) (head hn)
  | cons c m ih =>
    cases n with
    | nil => exact absurd (by simpa [Memory.read_cons] using h c.1) (head hm)
    | cons d n =>
      have hcd : c.1 = d.1 := by
        rcases Nat.lt_trichotomy c.1 d.1 with hlt | heq | hgt
        · have := h c.1
          rw [Memory.read_cons, if_pos rfl, Memory.read_cons, if_neg (by omega), below hn (by omega)] at this
          exact absurd this (head hm)
        · exact heq
        · have := h d.1
          rw [Memory.read_cons, if_neg (by omega), below hm (by omega), Memory.read_cons, if_pos rfl] at this
          exact absurd this.symm (head hn)
      have hv : c.2 = d.2 := by simpa [Memory.read_cons, hcd] using h c.1
      have hrest : m = n := ih (tail hm) (tail hn) fun a => by
        by_cases ha : c.1 = a
        · rw [below hm (by omega), below hn (by omega)]
        · simpa [Memory.read_cons, ha, hcd ▸ ha] using h a
      rw [Prod.ext hcd hv, hrest]

/-- Everything a MemWrite can do (R38, R39): below 14 the byte is stored, at 14 and 15 nothing happens. -/
theorem memWrite_spec (a : BitVec 4) (v : Byte) (s : State) :
    memWrite a v s = { s with ram := if a.toNat < Config.ramSize then s.ram.write a.toNat v else s.ram } := by
  rw [memWrite]
  split <;> rfl

theorem memWrite_of_lt {a : BitVec 4} {s : State} (v : Byte) (h : a.toNat < Config.ramSize) :
    memWrite a v s = { s with ram := s.ram.write a.toNat v } := if_pos h

theorem memWrite_of_ge {a : BitVec 4} {s : State} (v : Byte) (h : ¬ a.toNat < Config.ramSize) :
    memWrite a v s = s := if_neg h

/-- A MemWrite keeps the canonical form. -/
theorem memWrite_wf (a : BitVec 4) (v : Byte) {s : State} (h : s.ram.wf) : (memWrite a v s).ram.wf := by
  rw [memWrite_spec]
  show Memory.wf (if _ then _ else _)
  split
  · rename_i ha
    exact Memory.wf_write v ha h
  · exact h

theorem reset_ram_wf : State.reset.ram.wf := Memory.wf_nil

end Sys2Proof.Machine
end

