-- ==== Sys2Proof/Laws/State.lean ====
section
/-! SUPPORT. One lemma per field per named update of the state, true by `rfl`, so that no later proof unfolds an
update. -/

namespace Sys2Proof.Machine

variable (s : State)

/-! Entering key-read mode (R91). -/

@[simp] theorem enterKeyRead_ram : (enterKeyRead s).ram = s.ram := rfl
@[simp] theorem enterKeyRead_address : (enterKeyRead s).address = s.address := rfl
@[simp] theorem enterKeyRead_autoInc : (enterKeyRead s).autoInc = s.autoInc := rfl
@[simp] theorem enterKeyRead_displayOn : (enterKeyRead s).displayOn = s.displayOn := rfl
@[simp] theorem enterKeyRead_activeGrid : (enterKeyRead s).activeGrid = s.activeGrid := rfl
@[simp] theorem enterKeyRead_commandMode : (enterKeyRead s).commandMode = s.commandMode := rfl
@[simp] theorem enterKeyRead_readingKeys : (enterKeyRead s).readingKeys = true := rfl
@[simp] theorem enterKeyRead_currentByte : (enterKeyRead s).currentByte = s.currentByte := rfl
@[simp] theorem enterKeyRead_bitIndex : (enterKeyRead s).bitIndex = s.bitIndex := rfl
@[simp] theorem enterKeyRead_keyBitCounter : (enterKeyRead s).keyBitCounter = 0 := rfl
@[simp] theorem enterKeyRead_keyData : (enterKeyRead s).keyData = s.keyData := rfl
@[simp] theorem enterKeyRead_phase : (enterKeyRead s).phase = s.phase := rfl
@[simp] theorem enterKeyRead_dioDir : (enterKeyRead s).dioDir = .output := rfl
@[simp] theorem enterKeyRead_dioOut : (enterKeyRead s).dioOut = Config.dioPreshiftLevel s.draws := rfl
@[simp] theorem enterKeyRead_seg : (enterKeyRead s).seg = s.seg := rfl
@[simp] theorem enterKeyRead_grid : (enterKeyRead s).grid = s.grid := rfl
@[simp] theorem enterKeyRead_events : (enterKeyRead s).events = s.events := rfl
@[simp] theorem enterKeyRead_draws : (enterKeyRead s).draws = s.draws + 1 := rfl

/-! Leaving key-read mode (R75). -/

@[simp] theorem leaveKeyRead_ram : (leaveKeyRead s).ram = s.ram := rfl
@[simp] theorem leaveKeyRead_address : (leaveKeyRead s).address = s.address := rfl
@[simp] theorem leaveKeyRead_autoInc : (leaveKeyRead s).autoInc = s.autoInc := rfl
@[simp] theorem leaveKeyRead_displayOn : (leaveKeyRead s).displayOn = s.displayOn := rfl
@[simp] theorem leaveKeyRead_activeGrid : (leaveKeyRead s).activeGrid = s.activeGrid := rfl
@[simp] theorem leaveKeyRead_commandMode : (leaveKeyRead s).commandMode = s.commandMode := rfl
@[simp] theorem leaveKeyRead_readingKeys : (leaveKeyRead s).readingKeys = false := rfl
@[simp] theorem leaveKeyRead_currentByte : (leaveKeyRead s).currentByte = s.currentByte := rfl
@[simp] theorem leaveKeyRead_bitIndex : (leaveKeyRead s).bitIndex = s.bitIndex := rfl
@[simp] theorem leaveKeyRead_keyBitCounter : (leaveKeyRead s).keyBitCounter = 0 := rfl
@[simp] theorem leaveKeyRead_keyData : (leaveKeyRead s).keyData = s.keyData := rfl
@[simp] theorem leaveKeyRead_phase : (leaveKeyRead s).phase = s.phase := rfl
@[simp] theorem leaveKeyRead_dioDir : (leaveKeyRead s).dioDir = .input := rfl
@[simp] theorem leaveKeyRead_dioOut : (leaveKeyRead s).dioOut = s.dioOut := rfl
@[simp] theorem leaveKeyRead_seg : (leaveKeyRead s).seg = s.seg := rfl
@[simp] theorem leaveKeyRead_grid : (leaveKeyRead s).grid = s.grid := rfl
@[simp] theorem leaveKeyRead_events : (leaveKeyRead s).events = s.events := rfl
@[simp] theorem leaveKeyRead_draws : (leaveKeyRead s).draws = s.draws := rfl

/-! Entering command mode (R75). -/

@[simp] theorem enterCommandMode_ram : (enterCommandMode s).ram = s.ram := rfl
@[simp] theorem enterCommandMode_address : (enterCommandMode s).address = s.address := rfl
@[simp] theorem enterCommandMode_autoInc : (enterCommandMode s).autoInc = s.autoInc := rfl
@[simp] theorem enterCommandMode_displayOn : (enterCommandMode s).displayOn = s.displayOn := rfl
@[simp] theorem enterCommandMode_activeGrid : (enterCommandMode s).activeGrid = s.activeGrid := rfl
@[simp] theorem enterCommandMode_commandMode : (enterCommandMode s).commandMode = true := rfl
@[simp] theorem enterCommandMode_readingKeys : (enterCommandMode s).readingKeys = s.readingKeys := rfl
@[simp] theorem enterCommandMode_currentByte : (enterCommandMode s).currentByte = s.currentByte := rfl
@[simp] theorem enterCommandMode_bitIndex : (enterCommandMode s).bitIndex = s.bitIndex := rfl
@[simp] theorem enterCommandMode_keyBitCounter : (enterCommandMode s).keyBitCounter = s.keyBitCounter := rfl
@[simp] theorem enterCommandMode_keyData : (enterCommandMode s).keyData = s.keyData := rfl
@[simp] theorem enterCommandMode_phase : (enterCommandMode s).phase = s.phase := rfl
@[simp] theorem enterCommandMode_dioDir : (enterCommandMode s).dioDir = s.dioDir := rfl
@[simp] theorem enterCommandMode_dioOut : (enterCommandMode s).dioOut = s.dioOut := rfl
@[simp] theorem enterCommandMode_seg : (enterCommandMode s).seg = s.seg := rfl
@[simp] theorem enterCommandMode_grid : (enterCommandMode s).grid = s.grid := rfl
@[simp] theorem enterCommandMode_events : (enterCommandMode s).events = s.events := rfl
@[simp] theorem enterCommandMode_draws : (enterCommandMode s).draws = s.draws := rfl

/-! Leaving command mode (R91, R95). -/

@[simp] theorem leaveCommandMode_ram : (leaveCommandMode s).ram = s.ram := rfl
@[simp] theorem leaveCommandMode_address : (leaveCommandMode s).address = s.address := rfl
@[simp] theorem leaveCommandMode_autoInc : (leaveCommandMode s).autoInc = s.autoInc := rfl
@[simp] theorem leaveCommandMode_displayOn : (leaveCommandMode s).displayOn = s.displayOn := rfl
@[simp] theorem leaveCommandMode_activeGrid : (leaveCommandMode s).activeGrid = s.activeGrid := rfl
@[simp] theorem leaveCommandMode_commandMode : (leaveCommandMode s).commandMode = false := rfl
@[simp] theorem leaveCommandMode_readingKeys : (leaveCommandMode s).readingKeys = s.readingKeys := rfl
@[simp] theorem leaveCommandMode_currentByte : (leaveCommandMode s).currentByte = s.currentByte := rfl
@[simp] theorem leaveCommandMode_bitIndex : (leaveCommandMode s).bitIndex = s.bitIndex := rfl
@[simp] theorem leaveCommandMode_keyBitCounter : (leaveCommandMode s).keyBitCounter = s.keyBitCounter := rfl
@[simp] theorem leaveCommandMode_keyData : (leaveCommandMode s).keyData = s.keyData := rfl
@[simp] theorem leaveCommandMode_phase : (leaveCommandMode s).phase = s.phase := rfl
@[simp] theorem leaveCommandMode_dioDir : (leaveCommandMode s).dioDir = s.dioDir := rfl
@[simp] theorem leaveCommandMode_dioOut : (leaveCommandMode s).dioOut = s.dioOut := rfl
@[simp] theorem leaveCommandMode_seg : (leaveCommandMode s).seg = s.seg := rfl
@[simp] theorem leaveCommandMode_grid : (leaveCommandMode s).grid = s.grid := rfl
@[simp] theorem leaveCommandMode_events : (leaveCommandMode s).events = s.events := rfl
@[simp] theorem leaveCommandMode_draws : (leaveCommandMode s).draws = s.draws := rfl

/-! Clearing the accumulator (R75, R78). -/

@[simp] theorem clearAccumulator_ram : (clearAccumulator s).ram = s.ram := rfl
@[simp] theorem clearAccumulator_address : (clearAccumulator s).address = s.address := rfl
@[simp] theorem clearAccumulator_autoInc : (clearAccumulator s).autoInc = s.autoInc := rfl
@[simp] theorem clearAccumulator_displayOn : (clearAccumulator s).displayOn = s.displayOn := rfl
@[simp] theorem clearAccumulator_activeGrid : (clearAccumulator s).activeGrid = s.activeGrid := rfl
@[simp] theorem clearAccumulator_commandMode : (clearAccumulator s).commandMode = s.commandMode := rfl
@[simp] theorem clearAccumulator_readingKeys : (clearAccumulator s).readingKeys = s.readingKeys := rfl
@[simp] theorem clearAccumulator_currentByte : (clearAccumulator s).currentByte = 0 := rfl
@[simp] theorem clearAccumulator_bitIndex : (clearAccumulator s).bitIndex = 0 := rfl
@[simp] theorem clearAccumulator_keyBitCounter : (clearAccumulator s).keyBitCounter = s.keyBitCounter := rfl
@[simp] theorem clearAccumulator_keyData : (clearAccumulator s).keyData = s.keyData := rfl
@[simp] theorem clearAccumulator_phase : (clearAccumulator s).phase = s.phase := rfl
@[simp] theorem clearAccumulator_dioDir : (clearAccumulator s).dioDir = s.dioDir := rfl
@[simp] theorem clearAccumulator_dioOut : (clearAccumulator s).dioOut = s.dioOut := rfl
@[simp] theorem clearAccumulator_seg : (clearAccumulator s).seg = s.seg := rfl
@[simp] theorem clearAccumulator_grid : (clearAccumulator s).grid = s.grid := rfl
@[simp] theorem clearAccumulator_events : (clearAccumulator s).events = s.events := rfl
@[simp] theorem clearAccumulator_draws : (clearAccumulator s).draws = s.draws := rfl

/-! Shifting a bit in (R77). -/

@[simp] theorem shiftIn_ram (d : Bool) : (shiftIn d s).ram = s.ram := rfl
@[simp] theorem shiftIn_address (d : Bool) : (shiftIn d s).address = s.address := rfl
@[simp] theorem shiftIn_autoInc (d : Bool) : (shiftIn d s).autoInc = s.autoInc := rfl
@[simp] theorem shiftIn_displayOn (d : Bool) : (shiftIn d s).displayOn = s.displayOn := rfl
@[simp] theorem shiftIn_activeGrid (d : Bool) : (shiftIn d s).activeGrid = s.activeGrid := rfl
@[simp] theorem shiftIn_commandMode (d : Bool) : (shiftIn d s).commandMode = s.commandMode := rfl
@[simp] theorem shiftIn_readingKeys (d : Bool) : (shiftIn d s).readingKeys = s.readingKeys := rfl
@[simp] theorem shiftIn_currentByte (d : Bool) :
    (shiftIn d s).currentByte =
      s.currentByte ||| ((BitVec.ofBool d).setWidth 8 <<< s.bitIndex.toNat) := rfl
@[simp] theorem shiftIn_bitIndex (d : Bool) : (shiftIn d s).bitIndex = s.bitIndex + 1 := rfl
@[simp] theorem shiftIn_keyBitCounter (d : Bool) : (shiftIn d s).keyBitCounter = s.keyBitCounter := rfl
@[simp] theorem shiftIn_keyData (d : Bool) : (shiftIn d s).keyData = s.keyData := rfl
@[simp] theorem shiftIn_phase (d : Bool) : (shiftIn d s).phase = s.phase := rfl
@[simp] theorem shiftIn_dioDir (d : Bool) : (shiftIn d s).dioDir = s.dioDir := rfl
@[simp] theorem shiftIn_dioOut (d : Bool) : (shiftIn d s).dioOut = s.dioOut := rfl
@[simp] theorem shiftIn_seg (d : Bool) : (shiftIn d s).seg = s.seg := rfl
@[simp] theorem shiftIn_grid (d : Bool) : (shiftIn d s).grid = s.grid := rfl
@[simp] theorem shiftIn_events (d : Bool) : (shiftIn d s).events = s.events := rfl
@[simp] theorem shiftIn_draws (d : Bool) : (shiftIn d s).draws = s.draws := rfl

/-! Setting a key bit (R104). -/

@[simp] theorem setKeyBit_ram (ks : Fin 5) : (setKeyBit ks s).ram = s.ram := rfl
@[simp] theorem setKeyBit_address (ks : Fin 5) : (setKeyBit ks s).address = s.address := rfl
@[simp] theorem setKeyBit_autoInc (ks : Fin 5) : (setKeyBit ks s).autoInc = s.autoInc := rfl
@[simp] theorem setKeyBit_displayOn (ks : Fin 5) : (setKeyBit ks s).displayOn = s.displayOn := rfl
@[simp] theorem setKeyBit_activeGrid (ks : Fin 5) : (setKeyBit ks s).activeGrid = s.activeGrid := rfl
@[simp] theorem setKeyBit_commandMode (ks : Fin 5) : (setKeyBit ks s).commandMode = s.commandMode := rfl
@[simp] theorem setKeyBit_readingKeys (ks : Fin 5) : (setKeyBit ks s).readingKeys = s.readingKeys := rfl
@[simp] theorem setKeyBit_currentByte (ks : Fin 5) : (setKeyBit ks s).currentByte = s.currentByte := rfl
@[simp] theorem setKeyBit_bitIndex (ks : Fin 5) : (setKeyBit ks s).bitIndex = s.bitIndex := rfl
@[simp] theorem setKeyBit_keyBitCounter (ks : Fin 5) : (setKeyBit ks s).keyBitCounter = s.keyBitCounter := rfl
@[simp] theorem setKeyBit_keyData (ks : Fin 5) :
    (setKeyBit ks s).keyData =
      s.keyData.set (keyBit ks).1 (s.keyData[(keyBit ks).1] ||| (keyBit ks).2) := rfl
@[simp] theorem setKeyBit_phase (ks : Fin 5) : (setKeyBit ks s).phase = s.phase := rfl
@[simp] theorem setKeyBit_dioDir (ks : Fin 5) : (setKeyBit ks s).dioDir = s.dioDir := rfl
@[simp] theorem setKeyBit_dioOut (ks : Fin 5) : (setKeyBit ks s).dioOut = s.dioOut := rfl
@[simp] theorem setKeyBit_seg (ks : Fin 5) : (setKeyBit ks s).seg = s.seg := rfl
@[simp] theorem setKeyBit_grid (ks : Fin 5) : (setKeyBit ks s).grid = s.grid := rfl
@[simp] theorem setKeyBit_events (ks : Fin 5) : (setKeyBit ks s).events = s.events := rfl
@[simp] theorem setKeyBit_draws (ks : Fin 5) : (setKeyBit ks s).draws = s.draws := rfl

/-! Driving a segment pin (R28). -/

@[simp] theorem pinWrite_seg_field_ram (i : Fin 8) (l : Level) : (pinWrite (.seg i) l s).ram = s.ram := rfl
@[simp] theorem pinWrite_seg_field_address (i : Fin 8) (l : Level) :
    (pinWrite (.seg i) l s).address =
      s.address := rfl
@[simp] theorem pinWrite_seg_field_autoInc (i : Fin 8) (l : Level) :
    (pinWrite (.seg i) l s).autoInc =
      s.autoInc := rfl
@[simp] theorem pinWrite_seg_field_displayOn (i : Fin 8) (l : Level) :
    (pinWrite (.seg i) l s).displayOn =
      s.displayOn := rfl
@[simp] theorem pinWrite_seg_field_activeGrid (i : Fin 8) (l : Level) :
    (pinWrite (.seg i) l s).activeGrid =
      s.activeGrid := rfl
@[simp] theorem pinWrite_seg_field_commandMode (i : Fin 8) (l : Level) :
    (pinWrite (.seg i) l s).commandMode =
      s.commandMode := rfl
@[simp] theorem pinWrite_seg_field_readingKeys (i : Fin 8) (l : Level) :
    (pinWrite (.seg i) l s).readingKeys =
      s.readingKeys := rfl
@[simp] theorem pinWrite_seg_field_currentByte (i : Fin 8) (l : Level) :
    (pinWrite (.seg i) l s).currentByte =
      s.currentByte := rfl
@[simp] theorem pinWrite_seg_field_bitIndex (i : Fin 8) (l : Level) :
    (pinWrite (.seg i) l s).bitIndex =
      s.bitIndex := rfl
@[simp] theorem pinWrite_seg_field_keyBitCounter (i : Fin 8) (l : Level) :
    (pinWrite (.seg i) l s).keyBitCounter =
      s.keyBitCounter := rfl
@[simp] theorem pinWrite_seg_field_keyData (i : Fin 8) (l : Level) :
    (pinWrite (.seg i) l s).keyData =
      s.keyData := rfl
@[simp] theorem pinWrite_seg_field_phase (i : Fin 8) (l : Level) :
    (pinWrite (.seg i) l s).phase =
      s.phase := rfl
@[simp] theorem pinWrite_seg_field_dioDir (i : Fin 8) (l : Level) :
    (pinWrite (.seg i) l s).dioDir =
      s.dioDir := rfl
@[simp] theorem pinWrite_seg_field_dioOut (i : Fin 8) (l : Level) :
    (pinWrite (.seg i) l s).dioOut =
      s.dioOut := rfl
@[simp] theorem pinWrite_seg_field_seg (i : Fin 8) (l : Level) :
    (pinWrite (.seg i) l s).seg =
      s.seg.set i l := rfl
@[simp] theorem pinWrite_seg_field_grid (i : Fin 8) (l : Level) : (pinWrite (.seg i) l s).grid = s.grid := rfl
@[simp] theorem pinWrite_seg_field_events (i : Fin 8) (l : Level) :
    (pinWrite (.seg i) l s).events =
      s.events := rfl
@[simp] theorem pinWrite_seg_field_draws (i : Fin 8) (l : Level) :
    (pinWrite (.seg i) l s).draws =
      s.draws := rfl

/-! Driving a grid pin (R29). -/

@[simp] theorem pinWrite_grid_field_ram (g : Fin 4) (l : Level) : (pinWrite (.grid g) l s).ram = s.ram := rfl
@[simp] theorem pinWrite_grid_field_address (g : Fin 4) (l : Level) :
    (pinWrite (.grid g) l s).address =
      s.address := rfl
@[simp] theorem pinWrite_grid_field_autoInc (g : Fin 4) (l : Level) :
    (pinWrite (.grid g) l s).autoInc =
      s.autoInc := rfl
@[simp] theorem pinWrite_grid_field_displayOn (g : Fin 4) (l : Level) :
    (pinWrite (.grid g) l s).displayOn =
      s.displayOn := rfl
@[simp] theorem pinWrite_grid_field_activeGrid (g : Fin 4) (l : Level) :
    (pinWrite (.grid g) l s).activeGrid =
      s.activeGrid := rfl
@[simp] theorem pinWrite_grid_field_commandMode (g : Fin 4) (l : Level) :
    (pinWrite (.grid g) l s).commandMode =
      s.commandMode := rfl
@[simp] theorem pinWrite_grid_field_readingKeys (g : Fin 4) (l : Level) :
    (pinWrite (.grid g) l s).readingKeys =
      s.readingKeys := rfl
@[simp] theorem pinWrite_grid_field_currentByte (g : Fin 4) (l : Level) :
    (pinWrite (.grid g) l s).currentByte =
      s.currentByte := rfl
@[simp] theorem pinWrite_grid_field_bitIndex (g : Fin 4) (l : Level) :
    (pinWrite (.grid g) l s).bitIndex =
      s.bitIndex := rfl
@[simp] theorem pinWrite_grid_field_keyBitCounter (g : Fin 4) (l : Level) :
    (pinWrite (.grid g) l s).keyBitCounter =
      s.keyBitCounter := rfl
@[simp] theorem pinWrite_grid_field_keyData (g : Fin 4) (l : Level) :
    (pinWrite (.grid g) l s).keyData =
      s.keyData := rfl
@[simp] theorem pinWrite_grid_field_phase (g : Fin 4) (l : Level) :
    (pinWrite (.grid g) l s).phase =
      s.phase := rfl
@[simp] theorem pinWrite_grid_field_dioDir (g : Fin 4) (l : Level) :
    (pinWrite (.grid g) l s).dioDir =
      s.dioDir := rfl
@[simp] theorem pinWrite_grid_field_dioOut (g : Fin 4) (l : Level) :
    (pinWrite (.grid g) l s).dioOut =
      s.dioOut := rfl
@[simp] theorem pinWrite_grid_field_seg (g : Fin 4) (l : Level) : (pinWrite (.grid g) l s).seg = s.seg := rfl
@[simp] theorem pinWrite_grid_field_grid (g : Fin 4) (l : Level) :
    (pinWrite (.grid g) l s).grid =
      s.grid.set g l := rfl
@[simp] theorem pinWrite_grid_field_events (g : Fin 4) (l : Level) :
    (pinWrite (.grid g) l s).events =
      s.events := rfl
@[simp] theorem pinWrite_grid_field_draws (g : Fin 4) (l : Level) :
    (pinWrite (.grid g) l s).draws =
      s.draws := rfl

/-! Driving DIO (R27). -/

@[simp] theorem pinWrite_dio_field_ram (l : Level) : (pinWrite .dio l s).ram = s.ram := rfl
@[simp] theorem pinWrite_dio_field_address (l : Level) : (pinWrite .dio l s).address = s.address := rfl
@[simp] theorem pinWrite_dio_field_autoInc (l : Level) : (pinWrite .dio l s).autoInc = s.autoInc := rfl
@[simp] theorem pinWrite_dio_field_displayOn (l : Level) : (pinWrite .dio l s).displayOn = s.displayOn := rfl
@[simp] theorem pinWrite_dio_field_activeGrid (l : Level) :
    (pinWrite .dio l s).activeGrid =
      s.activeGrid := rfl
@[simp] theorem pinWrite_dio_field_commandMode (l : Level) :
    (pinWrite .dio l s).commandMode =
      s.commandMode := rfl
@[simp] theorem pinWrite_dio_field_readingKeys (l : Level) :
    (pinWrite .dio l s).readingKeys =
      s.readingKeys := rfl
@[simp] theorem pinWrite_dio_field_currentByte (l : Level) :
    (pinWrite .dio l s).currentByte =
      s.currentByte := rfl
@[simp] theorem pinWrite_dio_field_bitIndex (l : Level) : (pinWrite .dio l s).bitIndex = s.bitIndex := rfl
@[simp] theorem pinWrite_dio_field_keyBitCounter (l : Level) :
    (pinWrite .dio l s).keyBitCounter =
      s.keyBitCounter := rfl
@[simp] theorem pinWrite_dio_field_keyData (l : Level) : (pinWrite .dio l s).keyData = s.keyData := rfl
@[simp] theorem pinWrite_dio_field_phase (l : Level) : (pinWrite .dio l s).phase = s.phase := rfl
@[simp] theorem pinWrite_dio_field_dioDir (l : Level) : (pinWrite .dio l s).dioDir = s.dioDir := rfl
@[simp] theorem pinWrite_dio_field_dioOut (l : Level) : (pinWrite .dio l s).dioOut = l := rfl
@[simp] theorem pinWrite_dio_field_seg (l : Level) : (pinWrite .dio l s).seg = s.seg := rfl
@[simp] theorem pinWrite_dio_field_grid (l : Level) : (pinWrite .dio l s).grid = s.grid := rfl
@[simp] theorem pinWrite_dio_field_events (l : Level) : (pinWrite .dio l s).events = s.events := rfl
@[simp] theorem pinWrite_dio_field_draws (l : Level) : (pinWrite .dio l s).draws = s.draws := rfl

end Sys2Proof.Machine
end

