-- ==== Sys2Proof/Laws/Commands.lean ====
section
/-! SUPPORT. What `exec` answers, said once for all instructions. -/

namespace Sys2Proof.Machine

/-- The state after an instruction. -/
def afterInstr : Instr → State → State
  | .displayModeSet _, s => s
  | .dataSet _ f r _, s =>
    { (if r then enterKeyRead s else s) with autoInc := !f, commandMode := false }
  | .displayControl _ e _, s => { s with displayOn := e }
  | .addressSet _ a, s => { s with address := a, commandMode := false }
  | .dataWrite d, s =>
    if s.address.toNat < 14 then
      { s with
        ram := s.ram.write s.address.toNat d
        address := if s.autoInc then BitVec.ofNat 4 ((s.address.toNat + 1) % 14) else s.address }
    else s

/-- Every instruction answers a next state, in every state (R116). -/
theorem exec_eq (i : Instr) (s : State) : exec i s = .next (afterInstr i s) := by
  cases i with
  | displayModeSet m => rfl
  | dataSet x f r x0 => cases r <;> rfl
  | displayControl x e b => rfl
  | addressSet x a => rfl
  | dataWrite d =>
    simp only [exec, execDataWrite, afterInstr, Config.ramSize]
    split
    · rename_i h
      rw [memWrite_of_lt _ h]
      split <;> simp_all [dataOperand, nextAddress]
    · rfl

theorem dispatch_eq (b : Byte) (s : State) :
    dispatch b s = .next (afterInstr (decodeByte s.commandMode b) s) := exec_eq _ _

theorem decodeByte_data (b : Byte) : decodeByte false b = .dataWrite b := rfl

end Sys2Proof.Machine
end

