-- ==== Sys2Proof/Laws/Multiplex.lean ====
section
/-! SUPPORT. What each phase of the multiplex engine does, said once. -/

namespace Sys2Proof.Machine

/-- A run of segment pin writes changes `seg` alone. -/
theorem foldl_pinWrite_seg {ι : Type} (f : ι → Fin 8) (v : ι → Level) (l : List ι) (s : State) :
    l.foldl (fun s j => pinWrite (.seg (f j)) (v j) s) s =
      { s with seg := l.foldl (fun (w : Vector Level 8) j => w.set (f j) (v j)) s.seg } := by
  induction l generalizing s with
  | nil => rfl
  | cons j l ih => rw [List.foldl_cons, ih]; rfl

/-- A run of grid pin writes changes `grid` alone. -/
theorem foldl_pinWrite_grid {ι : Type} (f : ι → Fin 4) (v : ι → Level) (l : List ι) (s : State) :
    l.foldl (fun s j => pinWrite (.grid (f j)) (v j) s) s =
      { s with grid := l.foldl (fun (w : Vector Level 4) j => w.set (f j) (v j)) s.grid } := by
  induction l generalizing s with
  | nil => rfl
  | cons j l ih => rw [List.foldl_cons, ih]; rfl

/-- What scan line ks adds to its report byte: its mask when K1 reads low, nothing otherwise (R103, R104). -/
def keyMask (k1 : Vector Level 5) (ks : Fin 5) : Byte := if k1[ks] = .L then (keyBit ks).2 else 0#8

/-- The report a scan makes from the five sampled levels (R104). -/
def scanReport (k1 : Vector Level 5) : Vector Byte 3 :=
  #v[keyMask k1 0 ||| keyMask k1 1, keyMask k1 2 ||| keyMask k1 3, keyMask k1 4]

/-- The scan-line pins after line ks has been driven alone (R103). -/
def driveScanLine (seg : Vector Level 8) (ks : Fin 5) : Vector Level 8 :=
  (scanLines.foldl (fun (v : Vector Level 8) j => v.set (scanLinePin j) .H) seg).set (scanLinePin ks) .L

theorem releaseScanLines_spec (s : State) :
    releaseScanLines s =
      { s with seg := scanLines.foldl (fun (v : Vector Level 8) j => v.set (scanLinePin j) .H) s.seg } :=
  foldl_pinWrite_seg scanLinePin (fun _ => .H) scanLines s

/-- One turn of the scan loop writes the scan-line pins and, where K1 reads low, one report bit. -/
theorem scanLine_spec (k1 : Vector Level 5) (s : State) (ks : Fin 5) :
    scanLine k1 s ks =
      { s with
        seg := driveScanLine s.seg ks
        keyData := s.keyData.set (keyBit ks).1 (s.keyData[(keyBit ks).1] ||| keyMask k1 ks) } := by
  simp only [scanLine, keyMask, releaseScanLines_spec]
  split
  · rfl
  · have h : s.keyData.set (keyBit ks).1 (s.keyData[(keyBit ks).1] ||| 0#8) = s.keyData := by
      simp
    rw [h]
    rfl

/-- After the whole loop lines 0 to 3 are inactive and line 4 active; the other segment pins are as before (R105). -/
theorem driveScanLine_all (seg : Vector Level 8) :
    scanLines.foldl driveScanLine seg = #v[.H, .H, .H, .H, .L, seg[5], seg[6], seg[7]] := by
  apply Vector.ext
  intro i hi
  simp only [scanLines, List.foldl, driveScanLine, scanLinePin]
  interval_cases i <;> simp

theorem keyBits_all (k1 : Vector Level 5) :
    scanLines.foldl (fun (r : Vector Byte 3) ks =>
        r.set (keyBit ks).1 (r[(keyBit ks).1] ||| keyMask k1 ks)) #v[0, 0, 0] = scanReport k1 := by
  apply Vector.ext
  intro i hi
  simp only [scanLines, List.foldl, scanReport, keyBit]
  interval_cases i <;> simp

theorem foldl_scanLine (k1 : Vector Level 5) (l : List (Fin 5)) (s : State) :
    l.foldl (scanLine k1) s =
      { s with
        seg := l.foldl driveScanLine s.seg
        keyData := l.foldl (fun (r : Vector Byte 3) ks =>
          r.set (keyBit ks).1 (r[(keyBit ks).1] ||| keyMask k1 ks)) s.keyData } := by
  induction l generalizing s with
  | nil => rfl
  | cons ks l ih => rw [List.foldl_cons, ih, scanLine_spec]; rfl

theorem blankAndClear_spec (s : State) :
    blankAndClear s = { s with grid := #v[.H, .H, .H, .H], keyData := #v[0, 0, 0] } := by
  have h : ([0, 1, 2, 3] : List (Fin 4)).foldl (fun (w : Vector Level 4) (g : Fin 4) => w.set g .H) s.grid =
      #v[.H, .H, .H, .H] := by
    apply Vector.ext
    intro i hi
    simp only [List.foldl]
    interval_cases i <;> simp
  rw [blankAndClear, foldl_pinWrite_grid (fun g => g) (fun _ => .H), h]

/-- Everything a scan phase does (R102 to R105): the grids are blank, the report is rebuilt from the samples, the
scan-line pins stand as the last line left them, and nothing else changes. -/
theorem scanPhase_spec (k1 : Vector Level 5) (s : State) :
    scanPhase k1 s =
      { s with
        grid := #v[.H, .H, .H, .H]
        keyData := scanReport k1
        seg := #v[.H, .H, .H, .H, .L, s.seg[5], s.seg[6], s.seg[7]] } := by
  rw [scanPhase, foldl_scanLine, blankAndClear_spec]
  simp only [driveScanLine_all, keyBits_all]

/-- The eight segment levels of a pattern (R110). -/
def segmentLevels (p : Byte) : Vector Level 8 :=
  #v[lvl (p.getLsbD 0), lvl (p.getLsbD 1), lvl (p.getLsbD 2), lvl (p.getLsbD 3),
    lvl (p.getLsbD 4), lvl (p.getLsbD 5), lvl (p.getLsbD 6), lvl (p.getLsbD 7)]

theorem driveSegments_spec (p : Byte) (s : State) :
    driveSegments p s = { s with seg := segmentLevels p } := by
  have h : ([0, 1, 2, 3, 4, 5, 6, 7] : List (Fin 8)).foldl
      (fun (w : Vector Level 8) (i : Fin 8) => w.set i (lvl (p.getLsbD i.val))) s.seg = segmentLevels p := by
    apply Vector.ext
    intro i hi
    simp only [List.foldl, segmentLevels]
    interval_cases i <;> simp
  rw [driveSegments, foldl_pinWrite_seg (fun i => i) (fun i => lvl (p.getLsbD i.val)), h]

/-- With the display off a display phase does nothing (R107). -/
theorem displayPhase_off {s : State} (h : s.displayOn = false) : displayPhase s = s := by
  simp [displayPhase, h]

/-- With the display on a display phase drives the segments and one grid, and moves to the next grid (R108 to
R111). -/
theorem displayPhase_on {s : State} (h : s.displayOn = true) :
    displayPhase s =
      { s with
        seg := segmentLevels (segmentPattern (s.ram.read (2 * s.activeGrid.val))
          (s.ram.read (2 * s.activeGrid.val + 1)))
        grid := s.grid.set s.activeGrid .L
        activeGrid := s.activeGrid + 1 } := by
  have h0 : (evenAddress s.activeGrid).toNat = 2 * s.activeGrid.val := by
    generalize s.activeGrid = g
    revert g
    decide
  have h1 : (oddAddress s.activeGrid).toNat = 2 * s.activeGrid.val + 1 := by
    generalize s.activeGrid = g
    revert g
    decide
  simp only [displayPhase, h, if_true, driveSegments_spec, memRead, h0, h1]
  rfl

theorem tick_scan (k1 : Vector Level 5) {s : State} (h : s.phase = .scan) :
    tick k1 s = { scanPhase k1 s with phase := .display } := by
  simp [tick, h]

theorem tick_display (k1 : Vector Level 5) {s : State} (h : s.phase = .display) :
    tick k1 s = { displayPhase s with phase := .scan } := by
  simp [tick, h]

end Sys2Proof.Machine
end

