-- ==== Sys2Proof/Laws/PerInstr.lean ====
section
/-! SUPPORT. The family `EncodesToOneByte`, one lemma per constructor of Instr: an instruction is exactly one byte
(spec/30_encoding.md R70) and is received in exactly one of the two modes (R59). -/

namespace Sys2Proof.Laws.EncodesToOneByte

/-- One byte, and one of the two modes. -/
def Statement (i : Instr) : Prop :=
  (encode i).length = 1 ∧ WellFormed true i = !WellFormed false i

theorem displayModeSet (m : BitVec 6) : Statement (.displayModeSet m) := ⟨rfl, rfl⟩

theorem dataSet (x : BitVec 3) (f r x0 : Bool) : Statement (.dataSet x f r x0) := ⟨rfl, rfl⟩

theorem displayControl (x : BitVec 2) (e : Bool) (b : BitVec 3) : Statement (.displayControl x e b) :=
  ⟨rfl, rfl⟩

theorem addressSet (x : BitVec 2) (a : BitVec 4) : Statement (.addressSet x a) := ⟨rfl, rfl⟩

theorem dataWrite (d : Byte) : Statement (.dataWrite d) := ⟨rfl, rfl⟩

end Sys2Proof.Laws.EncodesToOneByte
end

