-- ==== Sys2Proof/Laws/SerialLink.lean ====
section
/-! SUPPORT. What each operation of the serial link can do, said once. -/

namespace Sys2Proof.Machine

@[simp] theorem lvl_true : lvl true = .H := rfl
@[simp] theorem lvl_false : lvl false = .L := rfl
@[simp] theorem bit_H : bit .H = true := rfl
@[simp] theorem bit_L : bit .L = false := rfl
@[simp] theorem bit_lvl (b : Bool) : bit (lvl b) = b := by cases b <;> rfl
@[simp] theorem lvl_bit (l : Level) : lvl (bit l) = l := by cases l <;> rfl

/-- While DIO is an input its level is the one that stands on it from outside (R81, decision D10). -/
theorem pinReadDio_input (l : Level) {s : State} (h : s.dioDir = .input) : pinReadDio l s = l := by
  simp [pinReadDio, h]

/-- While DIO is an output its level is the one the block drives (decision D10). -/
theorem pinReadDio_output (l : Level) {s : State} (h : s.dioDir = .output) : pinReadDio l s = s.dioOut := by
  simp [pinReadDio, h]

/-- STB_RISE, field by field (R75). -/
theorem stbRise_spec (s : State) :
    stbRise s =
      { s with
        currentByte := 0
        bitIndex := 0
        commandMode := true
        readingKeys := false
        keyBitCounter := 0
        dioDir := .input } := rfl

/-- A shift-out edge drives one report bit, or does nothing once the report is exhausted (R84, R86). -/
theorem shiftOut_cases (s : State) :
    (∃ h : s.keyBitCounter.toNat / 8 < 3,
      shiftOut s =
        { s with
          dioOut := lvl (s.keyData[s.keyBitCounter.toNat / 8].getLsbD (s.keyBitCounter.toNat % 8))
          keyBitCounter := s.keyBitCounter + 1 }) ∨
    (24 ≤ s.keyBitCounter.toNat ∧ shiftOut s = s) := by
  by_cases h : s.keyBitCounter.toNat / 8 < 3
  · exact .inl ⟨h, by simp only [shiftOut, dif_pos h]; rfl⟩
  · exact .inr ⟨by omega, by simp only [shiftOut, dif_neg h]⟩

theorem clkFall_of_reading {s : State} (h : s.readingKeys = true) : clkFall s = shiftOut s := by
  simp [clkFall, h]

theorem clkFall_of_not_reading {s : State} (h : s.readingKeys = false) : clkFall s = s := by
  simp [clkFall, h]

theorem clkRise_of_reading (l : Level) {s : State} (h : s.readingKeys = true) :
    clkRise l s = .next s := by
  simp [clkRise, h]

/-- A shift-in completes a byte exactly when seven bits were in (R77). -/
theorem byteIsComplete_shiftIn (d : Bool) (s : State) :
    byteIsComplete (shiftIn d s) = decide (s.bitIndex = 7) := by
  have h : ∀ k : BitVec 4, (k + 1 = 8) ↔ (k = 7) := by decide
  rw [byteIsComplete, shiftIn_bitIndex]
  exact decide_eq_decide.2 (h s.bitIndex)

/-- CLK_RISE outside key-read mode: a bit is shifted in, and where that was the eighth the byte is dispatched
(R77, R78). -/
theorem clkRise_of_not_reading (l : Level) {s : State} (h : s.readingKeys = false) :
    clkRise l s =
      if s.bitIndex = 7 then
        dispatch (shiftIn (bit (pinReadDio l s)) s).currentByte { s with currentByte := 0, bitIndex := 0 }
      else .next (shiftIn (bit (pinReadDio l s)) s) := by
  rw [clkRise, if_neg (by simp [h])]
  simp only [byteIsComplete_shiftIn, decide_eq_true_eq]
  rfl

/-- One step takes the first pending event. -/
theorem step_of_events {s : State} {e : Event} {rest : List Event} (h : s.events = e :: rest) :
    step s = handle e { s with events := rest } := by
  simp [step, nextEvent, h]

/-- With no event pending a step changes nothing (R6). -/
theorem step_of_no_events {s : State} (h : s.events = []) : step s = .next s := by
  simp [step, nextEvent, idle, h]

end Sys2Proof.Machine
end

