-- ==== Sys2Proof/Laws/Step.lean ====
section
/-! SUPPORT. Everything a step can do, said once; what ticks and shift-out edges leave alone; and the small lemmas of
`runSteps`. -/

namespace Sys2Proof.Machine

/-- The CLK_RISE that brings the eighth bit dispatches the byte on the state with the accumulator cleared. -/
theorem step_completing {s : State} {d : Level} {rest : List Event} (he : s.events = .clkRise d :: rest)
    (hr : s.readingKeys = false) (h7 : s.bitIndex = 7) :
    step s = dispatch (shiftIn (bit (pinReadDio d s)) s).currentByte
      { s with events := rest, currentByte := 0, bitIndex := 0 } := by
  rw [step_of_events he]
  change clkRise d _ = _
  rw [clkRise_of_not_reading d (s := { s with events := rest }) hr, if_pos h7]
  rfl

/-- The same with the next state written out. -/
theorem step_completing_next {s : State} {d : Level} {rest : List Event} (he : s.events = .clkRise d :: rest)
    (hr : s.readingKeys = false) (h7 : s.bitIndex = 7) :
    step s = .next (afterInstr (decodeByte s.commandMode (shiftIn (bit (pinReadDio d s)) s).currentByte)
      { s with events := rest, currentByte := 0, bitIndex := 0 }) := by
  rw [step_completing he hr h7, dispatch_eq]

/-- Everything a step can do, by the event it takes: nothing pending; STB_RISE; STB_FALL; CLK_RISE in key-read mode;
CLK_RISE that shifts a bit in; CLK_RISE that completes a byte; CLK_FALL outside and in key-read mode; a tick. -/
theorem step_cases {s t : State} (h : step s = .next t) :
    (s.events = [] ∧ t = s) ∨
    (∃ rest, s.events = .stbRise :: rest ∧ t = stbRise { s with events := rest }) ∨
    (∃ rest, s.events = .stbFall :: rest ∧ t = { s with events := rest }) ∨
    (∃ d rest, s.events = .clkRise d :: rest ∧ s.readingKeys = true ∧ t = { s with events := rest }) ∨
    (∃ d rest, s.events = .clkRise d :: rest ∧ s.readingKeys = false ∧ s.bitIndex ≠ 7 ∧
      t = shiftIn (bit (pinReadDio d s)) { s with events := rest }) ∨
    (∃ b d rest, s.events = .clkRise d :: rest ∧ CompletesByte s b ∧
      t = afterInstr (decodeByte s.commandMode b) { s with events := rest, currentByte := 0, bitIndex := 0 }) ∨
    (∃ rest, s.events = .clkFall :: rest ∧ s.readingKeys = false ∧ t = { s with events := rest }) ∨
    (∃ rest, s.events = .clkFall :: rest ∧ s.readingKeys = true ∧ t = shiftOut { s with events := rest }) ∨
    (∃ k1 rest, s.events = .tick k1 :: rest ∧ t = tick k1 { s with events := rest }) := by
  rcases he : s.events with _ | ⟨e, rest⟩
  · rw [step_of_no_events he] at h; cases h; exact .inl ⟨rfl, rfl⟩
  right
  cases e with
  | stbRise => rw [step_of_events he] at h; cases h; exact .inl ⟨_, rfl, rfl⟩
  | stbFall => rw [step_of_events he] at h; cases h; exact .inr (.inl ⟨_, rfl, rfl⟩)
  | clkRise d =>
    right; right
    rcases Bool.eq_false_or_eq_true s.readingKeys with hr | hr
    · rw [step_of_events he] at h
      change clkRise d _ = _ at h
      rw [clkRise_of_reading d (s := { s with events := rest }) hr] at h
      cases h
      exact .inl ⟨d, rest, rfl, hr, rfl⟩
    · right
      by_cases h7 : s.bitIndex = 7
      · rw [step_completing_next he hr h7] at h
        cases h
        exact .inr (.inl ⟨_, d, rest, rfl, ⟨d, rest, he, hr, h7, rfl⟩, rfl⟩)
      · rw [step_of_events he] at h
        change clkRise d _ = _ at h
        rw [clkRise_of_not_reading d (s := { s with events := rest }) hr, if_neg h7] at h
        cases h
        exact .inl ⟨d, rest, rfl, hr, h7, rfl⟩
  | clkFall =>
    rw [step_of_events he] at h
    change Host.Outcome.next (clkFall _) = _ at h
    rcases Bool.eq_false_or_eq_true s.readingKeys with hr | hr
    · rw [clkFall_of_reading (s := { s with events := rest }) hr] at h; cases h
      exact .inr (.inr (.inr (.inr (.inr (.inr (.inl ⟨_, rfl, hr, rfl⟩))))))
    · rw [clkFall_of_not_reading (s := { s with events := rest }) hr] at h; cases h
      exact .inr (.inr (.inr (.inr (.inr (.inl ⟨_, rfl, hr, rfl⟩)))))
  | tick k1 =>
    rw [step_of_events he] at h; cases h
    exact .inr (.inr (.inr (.inr (.inr (.inr (.inr ⟨k1, rest, rfl, rfl⟩))))))

/-- A tick writes the report, the phase, the pins SEG and GRID and the active grid, and nothing else. -/
theorem tick_frame (k1 : Vector Level 5) (s : State) :
    ∃ report ph seg grid g,
      tick k1 s = { s with keyData := report, phase := ph, seg := seg, grid := grid, activeGrid := g } := by
  have hp : s.phase = .scan ∨ s.phase = .display := by cases s.phase <;> simp
  rcases hp with h | h
  · rw [tick_scan k1 h, scanPhase_spec]
    exact ⟨_, _, _, _, s.activeGrid, rfl⟩
  · rw [tick_display k1 h]
    rcases Bool.eq_false_or_eq_true s.displayOn with hd | hd
    · rw [displayPhase_on hd]
      exact ⟨s.keyData, _, _, _, _, rfl⟩
    · rw [displayPhase_off hd]
      exact ⟨s.keyData, _, s.seg, s.grid, s.activeGrid, rfl⟩

/-- A shift-out edge writes the level of DIO and the counter, and nothing else. -/
theorem shiftOut_frame (s : State) : ∃ l c, shiftOut s = { s with dioOut := l, keyBitCounter := c } := by
  rcases shiftOut_cases s with ⟨h, e⟩ | ⟨_, e⟩
  · exact ⟨_, _, e⟩
  · exact ⟨s.dioOut, s.keyBitCounter, e⟩

/-! The lemmas of `runSteps`. -/

theorem runSteps_succ {s t : State} (n : Nat) (h : step s = .next t) : runSteps (n + 1) s = runSteps n t := by
  simp [runSteps, h]

theorem runSteps_one {s t : State} (h : step s = .next t) : runSteps 1 s = .next t := by
  simp [runSteps, h]

theorem runSteps_add {s t : State} (m n : Nat) (h : runSteps m s = .next t) :
    runSteps (m + n) s = runSteps n t := by
  induction m generalizing s with
  | zero =>
    simp only [runSteps, Host.Outcome.next.injEq] at h
    subst h
    simp
  | succ m ih =>
    rw [show m + 1 + n = (m + n) + 1 by omega]
    simp only [runSteps] at h ⊢
    split <;> simp_all

/-! The lemmas of the host notation: `R n` is 2n events, of which n are shift-out edges, and one part of it after the
other. -/

@[simp] theorem rEvents_length (host : Level) (n : Nat) : (rEvents host n).length = 2 * n := by
  induction n with
  | zero => rfl
  | succ n ih => simp only [rEvents, List.length_cons, ih]; omega

@[simp] theorem rEvents_count (host : Level) (n : Nat) : (rEvents host n).count .clkFall = n := by
  induction n with
  | zero => rfl
  | succ n ih => rw [rEvents, List.count_cons_self, List.count_cons_of_ne (by simp), ih]

theorem rEvents_add (host : Level) (m n : Nat) : rEvents host (m + n) = rEvents host m ++ rEvents host n := by
  induction m with
  | zero => simp [rEvents]
  | succ m ih => rw [show m + 1 + n = (m + n) + 1 by omega]; simp only [rEvents, ih, List.cons_append]

/-- `runSteps` is the host's run of the machine. -/
theorem runSteps_eq_core_run (n : Nat) (s : State) : runSteps n s = Host.Core.run Sys2Proof.core n s := by
  induction n generalizing s with
  | zero => rfl
  | succ n ih =>
    have hstep : Host.Core.step Sys2Proof.core s = step s := rfl
    simp only [runSteps, Host.Core.run, hstep]
    cases step s with
    | next t => exact ih t
    | fault r => rfl
    | refused r => rfl

end Sys2Proof.Machine
end

