-- ==== Sys2Proof/Tests/Slice0.lean ====
section
/-! SUPPORT. The model's own tests. Expected values come from spec/95_test_vectors.md (the vector or example is named)
or from the rule named; witnesses show that the hypotheses of a statement can be met together. -/

namespace Sys2Proof.Tests

open Sys2Proof.Machine

/-- A view of the next state, `none` where the outcome is none. -/
def nextIs {α : Type} (view : State → α) (o : Host.Outcome State Fault Refusal) : Option α :=
  match o with
  | .next t => some (view t)
  | .fault _ => none
  | .refused _ => none

/-- Command mode outside a byte, one event pending. -/
def withEvent (e : Event) : State := { State.reset with events := [e] }

/-- In data mode at an address. -/
def dataMode (a : BitVec 4) (inc : Bool) : State :=
  { State.reset with commandMode := false, address := a, autoInc := inc }

/-- In key-read mode with a report and a counter (the report of E5). -/
def keyRead (n : BitVec 5) (events : List Event) : State :=
  { State.reset with
    commandMode := false, readingKeys := true, dioDir := .output, keyBitCounter := n
    keyData := #v[0x12, 0x02, 0x02], events := events }

/-- Seven bits of a byte in, the eighth arriving. -/
def lastBit (mode : Bool) (low : Byte) (d : Level) : State :=
  { State.reset with commandMode := mode, currentByte := low, bitIndex := 7, events := [.clkRise d] }

/-! ### WellFormed: each check refuses an ill-formed term -/

theorem test_displayModeSet_is_no_data : WellFormed false (.displayModeSet 3#6) = false := by decide
theorem test_dataSet_is_no_data : WellFormed false (.dataSet 0#3 false true false) = false := by decide
theorem test_displayControl_is_no_data : WellFormed false (.displayControl 0#2 true 7#3) = false := by decide
theorem test_addressSet_is_no_data : WellFormed false (.addressSet 0#2 5#4) = false := by decide
theorem test_dataWrite_is_no_command : WellFormed true (.dataWrite 0xC0#8) = false := by decide
theorem test_dataWrite_well_formed_as_data : WellFormed false (.dataWrite 0xC0#8) = true := by decide

/-! ### Decode: words written out bit by bit from R61 to R65, and the table's numbering -/

theorem test_word_displayModeSet : decodeByte true 0b00101011#8 = .displayModeSet 0b101011#6 := by decide
theorem test_word_dataSet : decodeByte true 0b01101100#8 = .dataSet 0b101#3 true false false := by decide
theorem test_word_dataSet_keys : decodeByte true 0b01000011#8 = .dataSet 0b000#3 false true true := by decide
theorem test_word_displayControl : decodeByte true 0b10011110#8 = .displayControl 0b01#2 true 0b110#3 := by
  decide
theorem test_word_addressSet : decodeByte true 0b11101101#8 = .addressSet 0b10#2 0b1101#4 := by decide
theorem test_word_dataWrite : decodeByte false 0b11000000#8 = .dataWrite 0xC0#8 := by decide
theorem test_encode_dataSet : encode (.dataSet 0b000#3 false true false) = [0x42#8] := by decide
theorem test_encode_displayControl : encode (.displayControl 0b11#2 true 0b000#3) = [0xB8#8] := by decide
theorem test_decode_no_byte :
    (match decode true [] with | .error e => decide (e = DecodeError.noByte) | .ok _ => false) = true := by decide
theorem test_table_word : decodeTableWord 8 0xF3 = some (.addressSet 3#2 3#4) := by decide
theorem test_table_word_needs_a_byte : decodeTableWord 0 0 = none := by decide
theorem test_fetch_word_runs :
    nextIs (fun t => (t.address, t.commandMode)) (step (State.reset.withFetchWord 8 0xC7)) = some (7#4, false) := by
  decide
theorem test_fetch_word_runs_as_data :
    nextIs (·.ram) (step ((dataMode 5 true).withFetchWord 8 0xC7)) = some [(5, 0xC7#8)] := by decide

/-! ### The instructions -/

/-- CMD-2: every mode bit set. -/
theorem test_displayModeSet_inert :
    nextIs id (exec (decodeByte true 0x3F#8) State.reset) = some State.reset := by decide

/-- CMD-8: 0x46 enters key-read mode with auto-increment off. -/
theorem test_dataSet_46 :
    nextIs (fun t => (t.readingKeys, t.keyBitCounter, t.dioDir, t.autoInc, t.commandMode))
      (exec (decodeByte true 0x46#8) { State.reset with autoInc := true }) =
      some (true, 0#5, .output, false, false) := by decide

/-- CMD-4: 0x41 acts as 0x40. -/
theorem test_dataSet_41 :
    nextIs (fun t => (t.readingKeys, t.dioDir, t.autoInc, t.commandMode)) (exec (decodeByte true 0x41#8) State.reset) =
      some (false, .input, true, false) := by decide

/-- CMD-15: bits 5:4 are ignored, and command mode stays. -/
theorem test_displayControl_B8 :
    nextIs (fun t => (t.displayOn, t.commandMode)) (exec (decodeByte true 0xB8#8) State.reset) = some (true, true) := by
  decide

/-- CMD-11: brightness is not the enable. -/
theorem test_displayControl_87 :
    nextIs (·.displayOn) (exec (decodeByte true 0x87#8) { State.reset with displayOn := true }) = some false := by
  decide

/-- CMD-19: address 14 is loaded as it is. -/
theorem test_addressSet_CE :
    nextIs (fun t => (t.address, t.commandMode)) (exec (decodeByte true 0xCE#8) State.reset) = some (14#4, false) := by
  decide

/-- DW-2: the address wraps from 13 to 0. -/
theorem test_dataWrite_wraps :
    nextIs (fun t => (t.ram, t.address)) (exec (.dataWrite 0xAB#8) (dataMode 13 true)) =
      some ([(13, 0xAB#8)], 0#4) := by decide

/-- DW-5: address 14 drops the byte and stays. -/
theorem test_dataWrite_dropped :
    nextIs (fun t => (t.ram, t.address)) (exec (.dataWrite 0x77#8) (dataMode 14 true)) = some ([], 14#4) := by
  decide

/-- The canonical form: entries rise, and writing 0x00 removes one (R14's reset contents). -/
theorem test_memory_canonical :
    (((Memory.write [] 5 1#8).write 2 7#8).write 5 0#8, (Memory.write [] 5 1#8).write 2 7#8) =
      ([(2, 7#8)], [(2, 7#8), (5, 1#8)]) := by decide

/-! ### The events -/

/-- The example of R75. -/
theorem test_stbRise_discards_partial_byte :
    nextIs (fun t => (t.bitIndex, t.currentByte, t.commandMode))
      (step { withEvent .stbRise with bitIndex := 3, currentByte := 5, commandMode := false }) =
      some (0#4, 0#8, true) := by decide

/-- SI-8. -/
theorem test_stbFall : nextIs id (step (withEvent .stbFall)) = some State.reset := by decide

/-- The example of R77. -/
theorem test_clkRise_shifts_in :
    nextIs (fun t => (t.currentByte, t.bitIndex))
      (step { withEvent (.clkRise .H) with bitIndex := 2, currentByte := 0b01 }) = some (0b101#8, 3#4) := by decide

/-- The example of R78: the eighth bit of 0xC5. -/
theorem test_clkRise_completes :
    nextIs (fun t => (t.address, t.currentByte, t.bitIndex)) (step (lastBit true 0x45 .H)) =
      some (5#4, 0#8, 0#4) := by decide

/-- SO-3. -/
theorem test_clkRise_in_keyRead : nextIs id (step (keyRead 5 [.clkRise .H])) = some (keyRead 5 []) := by decide

/-- The example of R84. -/
theorem test_clkFall_drives_bit :
    nextIs (fun t => (t.dioOut, t.keyBitCounter)) (step (keyRead 4 [.clkFall])) = some (.H, 5#5) := by decide

/-- SO-2. -/
theorem test_clkFall_exhausted : nextIs id (step (keyRead 24 [.clkFall])) = some (keyRead 24 []) := by decide

/-- SC-8: the report is rebuilt, the grids are blanked, SEG6 to SEG8 keep their levels. -/
theorem test_scan_phase :
    nextIs (fun t => (t.keyData, t.seg, t.grid, t.phase))
      (step { withEvent (.tick (k1Of [4])) with
        keyData := #v[1, 2, 3], seg := #v[.H, .L, .H, .L, .H, .H, .L, .H], grid := #v[.L, .H, .H, .H] }) =
      some (#v[0, 0, 2], #v[.H, .H, .H, .H, .L, .H, .L, .H], #v[.H, .H, .H, .H], .display) := by decide

/-- SC-3: all keys. -/
theorem test_scan_all_keys :
    nextIs (·.keyData) (step (withEvent (.tick (k1Of [0, 1, 2, 3, 4])))) = some #v[0x12, 0x12, 0x02] := by decide

/-- DP-6: grid 3, the wrap of the active grid. -/
theorem test_display_phase :
    nextIs (fun t => (t.seg, t.grid, t.activeGrid, t.phase))
      (step { withEvent (.tick (k1Of [])) with
        phase := .display, displayOn := true, activeGrid := 3, ram := [(6, 0x0A), (7, 0x10)] }) =
      some (#v[.L, .H, .L, .H, .L, .L, .H, .L], #v[.H, .H, .H, .L], 0, .scan) := by decide

/-- DP-10: the display is off. -/
theorem test_display_off :
    nextIs (fun t => (t.seg, t.grid, t.activeGrid))
      (step { withEvent (.tick (k1Of [])) with
        phase := .display, activeGrid := 2, seg := #v[.H, .L, .H, .L, .H, .L, .H, .L], grid := #v[.H, .L, .H, .H] }) =
      some (#v[.H, .L, .H, .L, .H, .L, .H, .L], #v[.H, .L, .H, .H], 2) := by decide

/-- The expansion of `W 0x42` (R74): DIO shows L, H, L, L, L, L, H, L. -/
theorem test_w_events :
    (wEvents 0x42#8).filter (· ≠ .clkFall) =
      [.clkRise .L, .clkRise .H, .clkRise .L, .clkRise .L, .clkRise .L, .clkRise .L, .clkRise .H, .clkRise .L] := by
  decide

/-! ### Witnesses: the hypotheses of each statement are met together -/

/-- Six bits in: a state of the middle of a byte. -/
def midByte : State :=
  { State.reset with currentByte := 0x2A, bitIndex := 6, events := [.clkRise .H] }

theorem witness_midByte_inv : Inv midByte :=
  ⟨by decide, by decide, by decide, by decide, by decide, by decide, by decide, by decide, by decide,
    by decide⟩

theorem witness_keyRead_inv : Inv (keyRead 23 [.clkFall]) :=
  ⟨by decide, by decide, by decide, by decide, by decide, by decide, by decide, by decide, by decide,
    by decide⟩

/-- A display phase with the display off, as the scan before left it. -/
def displayOffPhase : State := { withEvent (.tick (k1Of [])) with phase := .display }

theorem witness_displayOffPhase_inv : Inv displayOffPhase :=
  ⟨by decide, by decide, by decide, by decide, by decide, by decide, by decide, by decide, by decide,
    by decide⟩

theorem witness_DecodeOfEncodeIsTheInstruction :
    WellFormed true (.addressSet 3#2 15#4) = true ∧ WellFormed false (.dataWrite 0xFF#8) = true := by decide

theorem witness_EveryByteIsExactlyOneInstruction :
    (WellFormed true (.dataSet 0#3 false true false) = true ∧ encodeByte (.dataSet 0#3 false true false) = 0x42#8) ∧
    State.reset.commandMode = true ∧ (dataMode 0 true).commandMode = false := by decide

theorem witness_IgnoredBitsHaveNoEffect :
    State.reset.commandMode = true ∧ topBits 0x00#8 = topBits 0x3F#8 ∧
    (topBits 0x42#8 = topBits 0x7B#8 ∧ (0x42#8).getLsbD 1 = (0x7B#8).getLsbD 1 ∧
      (0x42#8).getLsbD 2 = (0x7B#8).getLsbD 2) ∧
    (topBits 0x88#8 = topBits 0xBF#8 ∧ (0x88#8).getLsbD 3 = (0xBF#8).getLsbD 3) ∧
    (topBits 0xC3#8 = topBits 0xF3#8 ∧ (0xC3#8).extractLsb' 0 4 = (0xF3#8).extractLsb' 0 4) := by decide

theorem witness_the_four_commands :
    State.reset.commandMode = true ∧ topBits 0x3F#8 = 0#2 ∧ (topBits 0x42#8 = 1#2 ∧ (0x42#8).getLsbD 1 = true) ∧
    topBits 0x80#8 = 2#2 ∧ topBits 0xFF#8 = 3#2 := by decide

theorem witness_DataWriteStoresAtAddress :
    (dataMode 13 true).address.toNat < 14 ∧ (14 ≤ (dataMode 14 true).address.toNat ∧
      (dataMode 14 true).commandMode = false) := by decide

theorem witness_AddressFourteenAndFifteenAreHeld :
    14 ≤ (14#4).toNat ∧ 14 ≤ ({ withEvent .stbFall with address := 15 } : State).address.toNat ∧
    nextIs (·.address) (step { withEvent .stbFall with address := 15 }) = some 15#4 := by decide

theorem witness_AddressReachesFourteenOnlyByAddressSet :
    nextIs (fun t => (decide (14 ≤ t.address.toNat), decide (t.address ≠ (lastBit true 0x4E .H).address)))
      (step (lastBit true 0x4E .H)) = some (true, true) := by decide

theorem witness_StepRunsTheDecodedInstruction :
    let s := lastBit true 0x45 .H
    s.events = .clkRise .H :: [] ∧ s.readingKeys = false ∧ s.dioDir = .input ∧ s.bitIndex = 7 ∧
    decodeByte s.commandMode (s.currentByte ||| 0x80#8) = .addressSet 0#2 5#4 ∧
    WellFormed s.commandMode (.addressSet 0#2 5#4) = true := by decide

theorem witness_stb_events : (withEvent .stbRise).events = .stbRise :: [] ∧
    (withEvent .stbFall).events = .stbFall :: [] := by decide

theorem witness_ClkRiseShiftsOneBitIn :
    Inv midByte ∧ midByte.events = .clkRise .H :: [] ∧ midByte.readingKeys = false ∧ midByte.bitIndex.toNat < 7 :=
  ⟨witness_midByte_inv, by decide, by decide, by decide⟩

theorem witness_ClkRiseIsIgnoredInKeyRead :
    (keyRead 5 [.clkRise .H]).events = .clkRise .H :: [] ∧ (keyRead 5 [.clkRise .H]).readingKeys = true := by decide

theorem witness_ClkFallDrivesOneReportBit :
    ((keyRead 23 [.clkFall]).events = .clkFall :: [] ∧ Inv (keyRead 23 [.clkFall]) ∧
      (keyRead 23 [.clkFall]).readingKeys = true ∧ (keyRead 23 [.clkFall]).keyBitCounter.toNat / 8 < 3 ∧
      (keyRead 23 [.clkFall]).keyBitCounter = 23) ∧
    ((keyRead 24 [.clkFall]).readingKeys = true ∧ ¬ (keyRead 24 [.clkFall]).keyBitCounter.toNat / 8 < 3) ∧
    (withEvent .clkFall).readingKeys = false :=
  ⟨⟨by decide, witness_keyRead_inv, by decide, by decide, by decide⟩, by decide, by decide⟩

theorem witness_ExhaustedReportHoldsUntilStbRise :
    ((keyRead 24 [.clkFall]).readingKeys = true ∧ (keyRead 24 [.clkFall]).keyBitCounter = 24 ∧
      (keyRead 24 [.clkFall]).events = .clkFall :: [] ∧
      nextIs (·.keyBitCounter) (step (keyRead 24 [.clkFall])) = some 24#5) ∧
    ((lastBit true 0x42 .L).readingKeys = false ∧
      nextIs (·.readingKeys) (step (lastBit true 0x42 .L)) = some true) := by decide

theorem witness_KeyReportStreamsLeastSignificantBitFirst :
    (keyRead 0 (List.replicate 24 .clkFall)).readingKeys = true ∧
    (keyRead 0 (List.replicate 24 .clkFall)).keyBitCounter = 0 ∧
    (keyRead 0 (List.replicate 24 .clkFall)).events = List.replicate (23 + 1) .clkFall ++ [] ∧
    (keyRead 0 (List.replicate 25 .clkFall)).events = List.replicate (24 + 1) .clkFall ++ [] ∧
    (keyRead 0 (rEvents .L 24)).events = rEvents .L (23 + 1) ++ [] ∧
    (keyRead 0 (rEvents .H 25)).events = rEvents .H (24 + 1) ++ [] := by decide

theorem witness_HostSamplesTheReportAsItStood :
    let pre := rEvents .H 23 ++ [.tick (k1Of [4])]
    let mid := [.tick (k1Of []), .clkRise .H, .stbFall]
    let s := keyRead 0 (pre ++ .clkFall :: (mid ++ []))
    (s.readingKeys = true ∧ s.dioDir = .output ∧ s.keyBitCounter = 0 ∧ .stbRise ∉ pre ∧ .stbRise ∉ mid ∧
      .clkFall ∉ mid ∧ pre.count .clkFall = 23) ∧
    (.stbRise ∉ rEvents .H 24 ∧ (rEvents .H 24).count .clkFall = 24) ∧
    (keyRead 5 mid).readingKeys = true ∧ (keyRead 5 mid).events = mid ++ [] := by decide

theorem witness_KeyreadTransactionReturnsTheReport :
    let s : State := { State.reset with keyData := #v[0x12, 0x02, 0x02], events := keyReadEvents .L ++ [] }
    AtByteBoundary s ∧ s.commandMode = true ∧ s.events = keyReadEvents .L ++ [] := ⟨⟨rfl, rfl, rfl, rfl⟩, rfl, rfl⟩

theorem witness_SerialByteIsDispatchedWhole :
    AtByteBoundary { State.reset with events := wEvents 0xC5 ++ [.stbRise] } := ⟨rfl, rfl, rfl, rfl⟩

theorem witness_FirstByteAfterStbRiseIsACommand :
    ({ keyRead 5 [] with events := .stbRise :: (wEvents 0x88 ++ []) } : State).events =
      .stbRise :: (wEvents 0x88 ++ []) := rfl

theorem witness_DataBytesFillAscendingAddresses :
    let s := { dataMode 13 true with events := [0xAA#8, 0xBB#8].flatMap wEvents ++ [] }
    AtByteBoundary s ∧ s.commandMode = false ∧ s.autoInc = true ∧ s.address.toNat < 14 ∧
      [0xAA#8, 0xBB#8].length ≤ 14 :=
  ⟨⟨rfl, rfl, rfl, rfl⟩, rfl, rfl, by decide, by decide⟩

theorem witness_scan_tick :
    (withEvent (.tick (k1Of [2]))).events = .tick (k1Of [2]) :: [] ∧
    (withEvent (.tick (k1Of [2]))).phase = .scan := by decide

theorem witness_KeyScanningIsIndependent :
    let s := withEvent (.tick (k1Of [2]))
    let u := keyRead 5 [.tick (k1Of [2])]
    s.phase = .scan ∧ u.phase = .scan ∧ s.events = .tick (k1Of [2]) :: [] ∧ u.events = .tick (k1Of [2]) :: [] ∧
      displayOffPhase.phase = .display ∧ displayOffPhase.events = .tick (k1Of []) :: [] := by decide

theorem witness_DisplayPhaseDoesNothingWhenOff :
    displayOffPhase.events = .tick (k1Of []) :: [] ∧ displayOffPhase.phase = .display ∧
    displayOffPhase.displayOn = false ∧ Inv displayOffPhase :=
  ⟨by decide, by decide, by decide, witness_displayOffPhase_inv⟩

theorem witness_DisplayPhaseShowsTheActiveGrid :
    let s : State := { displayOffPhase with displayOn := true, activeGrid := 3 }
    s.events = .tick (k1Of []) :: [] ∧ s.phase = .display ∧ s.displayOn = true := by decide

/-- The ranges of the two clauses meet between 4 and 5 and end at 7 (DP-3, DP-4). -/
theorem witness_PatternTakesFiveEvenAndThreeOddBits :
    ((segmentPattern 0x1F#8 0x00#8).getLsbD 4 = true ∧ (segmentPattern 0xE0#8 0xC7#8).getLsbD 4 = false) ∧
    ((segmentPattern 0x00#8 0x38#8).getLsbD 5 = true ∧ (segmentPattern 0x00#8 0x38#8).getLsbD 7 = true ∧
      (segmentPattern 0xE0#8 0xC7#8).getLsbD 5 = false ∧ (segmentPattern 0xE0#8 0xC7#8).getLsbD 7 = false) := by
  decide

theorem witness_EnabledDisplayTickUsesEightBitsOfItsTwoBytes :
    let s : State := { displayOffPhase with displayOn := true, activeGrid := 3, ram := [(6, 0x0A), (7, 0x10)] }
    let m : Memory := [(0, 0xFF), (6, 0xEA), (7, 0xD7)]
    s.events = .tick (k1Of []) :: [] ∧ s.phase = .display ∧ s.displayOn = true ∧
      (∀ i, i < 5 → (m.read 6).getLsbD i = (s.ram.read 6).getLsbD i) ∧
      ∀ i, i < 6 → 3 ≤ i → (m.read 7).getLsbD i = (s.ram.read 7).getLsbD i := by decide

theorem witness_EventsHappenOneByOneInOrder :
    midByte.events = .clkRise .H :: [] ∧ State.reset.events = [] := by decide

theorem witness_EightTicksLightEachGridOnce :
    let s : State :=
      { State.reset with
        displayOn := true, activeGrid := 3
        events := (List.range 8).map (fun _ => .tick (k1Of [])) ++ [] }
    s.displayOn = true ∧ s.phase = .scan ∧ s.events = (List.range 8).map (fun _ => .tick (k1Of [])) ++ [] := by decide

theorem witness_DisplayOffTakesEffectAtTheNextScan :
    let s : State :=
      { State.reset with
        displayOn := true, grid := #v[.L, .H, .H, .H], events := [.tick (k1Of []), .tick (k1Of [])] }
    s.commandMode = true ∧ s.phase = .scan ∧ s.events = .tick (k1Of []) :: .tick (k1Of []) :: [] ∧
      topBits 0x80#8 = 2#2 ∧ (0x80#8).getLsbD 3 = false := by decide

theorem witness_ScanBetweenEdgesMixesTheReport :
    let s := keyRead 23 [.tick (k1Of [3]), .clkFall]
    s.readingKeys = true ∧ s.phase = .scan ∧ s.events = .tick (k1Of [3]) :: .clkFall :: [] ∧
      s.keyBitCounter.toNat / 8 < 3 ∧ nextIs (·.keyBitCounter) (step s) = some 23#5 := by decide

theorem witness_EveryStepKeepsInv : Inv midByte ∧ nextIs (·.bitIndex) (step midByte) = some 7#4 :=
  ⟨witness_midByte_inv, by decide⟩

theorem witness_RamChangesOnlyByADataByte :
    nextIs (·.ram) (step (lastBit false 0x2B .H)) = some [(0, 0xAB#8)] ∧ (lastBit false 0x2B .H).ram = [] := by decide

theorem witness_ControlFlagsHaveOneWriterEach :
    (nextIs (·.autoInc) (step (lastBit true 0x40 .L)) = some true ∧ (lastBit true 0x40 .L).autoInc = false) ∧
    (nextIs (·.displayOn) (step (lastBit true 0x08 .H)) = some true ∧
      (lastBit true 0x08 .H).displayOn = false) := by decide

theorem witness_ModeChangesOnlyAsTheSpecSays :
    ((lastBit true 0x45 .H).commandMode = true ∧ nextIs (·.commandMode) (step (lastBit true 0x45 .H)) = some false) ∧
    ((keyRead 5 [.stbRise]).commandMode = false ∧ (keyRead 5 [.stbRise]).readingKeys = true ∧
      nextIs (fun t => (t.commandMode, t.readingKeys)) (step (keyRead 5 [.stbRise])) = some (true, false)) ∧
    ((lastBit true 0x42 .L).readingKeys = false ∧
      nextIs (·.readingKeys) (step (lastBit true 0x42 .L)) = some true) := by decide

theorem witness_DioLevelChangesOnlyInKeyRead :
    nextIs (·.dioOut) (step (keyRead 4 [.clkFall])) = some .H ∧ (keyRead 4 [.clkFall]).dioOut = .L := by decide

theorem witness_sides_left_alone :
    ((withEvent .stbRise).events = .stbRise :: [] ∧ Event.stbRise.fromHost = true ∧
      nextIs (·.phase) (step (withEvent .stbRise)) = some .scan) ∧
    nextIs (·.address) (step (withEvent (.tick (k1Of [2])))) = some 0#4 := by decide

theorem witness_ScanTickCommutesWithHostEvents :
    (Event.clkRise .H).fromHost = true ∧ midByte.phase = .scan ∧
      ¬ (Event.clkRise .H = .clkFall ∧ midByte.readingKeys = true) ∧
      Event.clkFall.fromHost = true ∧ ¬ (Event.clkFall = .clkFall ∧ midByte.readingKeys = true) := by decide

end Sys2Proof.Tests
end

