-- ==== Sys2Proof/Proofs/Encoding.lean ====
section
/-! PROOFS. The decoder and the encoder of a byte, bit by bit (R60 to R65, R72): which command each value of bits 7:6
is, what every bit of an encoding is, and that the two functions are inverse to each other in either mode. -/

namespace Sys2Proof.Encoding

/-! The opcode map of R72: in command mode bits 7:6 select the command. -/

theorem decodeByte_displayModeSet {b : Byte} (h7 : b.getLsbD 7 = false) (h6 : b.getLsbD 6 = false) :
    decodeByte true b = .displayModeSet (field b 0 6) := by
  simp only [decodeByte, if_true, h7, h6]

theorem decodeByte_dataSet {b : Byte} (h7 : b.getLsbD 7 = false) (h6 : b.getLsbD 6 = true) :
    decodeByte true b = .dataSet (field b 3 3) (b.getLsbD 2) (b.getLsbD 1) (b.getLsbD 0) := by
  simp only [decodeByte, if_true, h7, h6]

theorem decodeByte_displayControl {b : Byte} (h7 : b.getLsbD 7 = true) (h6 : b.getLsbD 6 = false) :
    decodeByte true b = .displayControl (field b 4 2) (b.getLsbD 3) (field b 0 3) := by
  simp only [decodeByte, if_true, h7, h6]

theorem decodeByte_addressSet {b : Byte} (h7 : b.getLsbD 7 = true) (h6 : b.getLsbD 6 = true) :
    decodeByte true b = .addressSet (field b 4 2) (field b 0 4) := by
  simp only [decodeByte, if_true, h7, h6]

/-! The bits of a field and of an encoding, in the order of the formats R61 to R64. -/

theorem getLsbD_field (b : Byte) (start len k : Nat) :
    (field b start len).getLsbD k = (decide (k < len) && b.getLsbD (start + k)) :=
  BitVec.getLsbD_extractLsb' ..

theorem field_eq_of_getLsbD {b : Byte} {start len : Nat} {v : BitVec len}
    (h : ∀ k < len, b.getLsbD (start + k) = v.getLsbD k) : field b start len = v :=
  BitVec.eq_of_getLsbD_eq fun k hk => by rw [getLsbD_field, h k hk, decide_eq_true hk, Bool.true_and]

theorem getLsbD_encodeByte_displayModeSet (m : BitVec 6) (k : Nat) :
    (encodeByte (.displayModeSet m)).getLsbD k =
      if k < 6 then m.getLsbD k else (0b00#2).getLsbD (k - 6) := by
  change (0b00#2 ++ m).getLsbD k = _
  simp only [BitVec.getLsbD_append]

theorem getLsbD_encodeByte_dataSet (x : BitVec 3) (f r x0 : Bool) (k : Nat) :
    (encodeByte (.dataSet x f r x0)).getLsbD k =
      if k = 0 then x0 else if k = 1 then r else if k = 2 then f
      else if k < 6 then x.getLsbD (k - 3) else (0b01#2).getLsbD (k - 6) := by
  change (0b01#2 ++ x ++ BitVec.ofBool f ++ BitVec.ofBool r ++ BitVec.ofBool x0).getLsbD k = _
  grind [BitVec.getLsbD_ofBool]

theorem getLsbD_encodeByte_displayControl (x : BitVec 2) (e : Bool) (b : BitVec 3) (k : Nat) :
    (encodeByte (.displayControl x e b)).getLsbD k =
      if k < 3 then b.getLsbD k else if k = 3 then e
      else if k < 6 then x.getLsbD (k - 4) else (0b10#2).getLsbD (k - 6) := by
  change (0b10#2 ++ x ++ BitVec.ofBool e ++ b).getLsbD k = _
  grind [BitVec.getLsbD_ofBool]

theorem getLsbD_encodeByte_addressSet (x : BitVec 2) (a : BitVec 4) (k : Nat) :
    (encodeByte (.addressSet x a)).getLsbD k =
      if k < 4 then a.getLsbD k else if k < 6 then x.getLsbD (k - 4) else (0b11#2).getLsbD (k - 6) := by
  change (0b11#2 ++ x ++ a).getLsbD k = _
  grind

/-- A byte is its two command bits and its six operand bits. -/
theorem byte_eq_of_command_and_operand {b c : Byte} (h7 : b.getLsbD 7 = c.getLsbD 7)
    (h6 : b.getLsbD 6 = c.getLsbD 6) (operand : ∀ k < 6, b.getLsbD k = c.getLsbD k) : b = c := by
  refine BitVec.eq_of_getLsbD_eq fun k hk => ?_
  obtain hlow | rfl | rfl : k < 6 ∨ k = 6 ∨ k = 7 := by omega
  · exact operand k hlow
  · exact h6
  · exact h7

/-- The decoder loses no bit: every byte is the encoding of what it is read as (R67). -/
theorem encodeByte_decodeByte (mode : Bool) (b : Byte) : encodeByte (decodeByte mode b) = b := by
  cases mode with
  | false => rfl
  | true =>
    rcases h7 : b.getLsbD 7 <;> rcases h6 : b.getLsbD 6
    · rw [decodeByte_displayModeSet h7 h6]
      have bits := getLsbD_encodeByte_displayModeSet (field b 0 6)
      exact byte_eq_of_command_and_operand ((bits 7).trans h7.symm) ((bits 6).trans h6.symm)
        fun k hk => by grind [getLsbD_field]
    · rw [decodeByte_dataSet h7 h6]
      have bits := getLsbD_encodeByte_dataSet (field b 3 3) (b.getLsbD 2) (b.getLsbD 1) (b.getLsbD 0)
      exact byte_eq_of_command_and_operand ((bits 7).trans h7.symm) ((bits 6).trans h6.symm)
        fun k hk => by grind [getLsbD_field]
    · rw [decodeByte_displayControl h7 h6]
      have bits := getLsbD_encodeByte_displayControl (field b 4 2) (b.getLsbD 3) (field b 0 3)
      exact byte_eq_of_command_and_operand ((bits 7).trans h7.symm) ((bits 6).trans h6.symm)
        fun k hk => by grind [getLsbD_field]
    · rw [decodeByte_addressSet h7 h6]
      have bits := getLsbD_encodeByte_addressSet (field b 4 2) (field b 0 4)
      exact byte_eq_of_command_and_operand ((bits 7).trans h7.symm) ((bits 6).trans h6.symm)
        fun k hk => by grind [getLsbD_field]

/-- The encoder loses no field: an instruction received in its mode is read back from its byte. -/
theorem decodeByte_encodeByte {mode : Bool} {i : Instr} (h : WellFormed mode i = true) :
    decodeByte mode (encodeByte i) = i := by
  cases i with
  | displayModeSet m =>
    obtain rfl : mode = true := h
    have bits := getLsbD_encodeByte_displayModeSet m
    have hm : field (encodeByte (.displayModeSet m)) 0 6 = m :=
      field_eq_of_getLsbD fun k hk => by grind
    rw [decodeByte_displayModeSet (bits 7) (bits 6), hm]
  | dataSet x f r x0 =>
    obtain rfl : mode = true := h
    have bits := getLsbD_encodeByte_dataSet x f r x0
    have hx : field (encodeByte (.dataSet x f r x0)) 3 3 = x :=
      field_eq_of_getLsbD fun k hk => by grind
    rw [decodeByte_dataSet (bits 7) (bits 6), hx, bits 2, bits 1, bits 0]
    rfl
  | displayControl x e b =>
    obtain rfl : mode = true := h
    have bits := getLsbD_encodeByte_displayControl x e b
    have hx : field (encodeByte (.displayControl x e b)) 4 2 = x :=
      field_eq_of_getLsbD fun k hk => by grind
    have hb : field (encodeByte (.displayControl x e b)) 0 3 = b :=
      field_eq_of_getLsbD fun k hk => by grind
    rw [decodeByte_displayControl (bits 7) (bits 6), hx, hb, bits 3]
    rfl
  | addressSet x a =>
    obtain rfl : mode = true := h
    have bits := getLsbD_encodeByte_addressSet x a
    have hx : field (encodeByte (.addressSet x a)) 4 2 = x :=
      field_eq_of_getLsbD fun k hk => by grind
    have ha : field (encodeByte (.addressSet x a)) 0 4 = a :=
      field_eq_of_getLsbD fun k hk => by grind
    rw [decodeByte_addressSet (bits 7) (bits 6), hx, ha]
  | dataWrite d =>
    obtain rfl : mode = false := by simpa [WellFormed] using h
    rfl

/-- In either mode the decoder reads an instruction of that mode (R59, R67). -/
theorem wellFormed_decodeByte (mode : Bool) (b : Byte) : WellFormed mode (decodeByte mode b) = true := by
  cases mode with
  | false => rfl
  | true =>
    rcases h7 : b.getLsbD 7 <;> rcases h6 : b.getLsbD 6
    · rw [decodeByte_displayModeSet h7 h6]; rfl
    · rw [decodeByte_dataSet h7 h6]; rfl
    · rw [decodeByte_displayControl h7 h6]; rfl
    · rw [decodeByte_addressSet h7 h6]; rfl

/-- Settles O2: the decoder and the encoder are inverse to each other in either mode, and every dispatch answers a
next state. -/
theorem everyByteIsExactlyOneInstruction : Obligations.EveryByteIsExactlyOneInstruction := by
  intro mode b
  refine ⟨⟨wellFormed_decodeByte mode b, encodeByte_decodeByte mode b⟩, ?unique, ?completes⟩
  case unique =>
    rintro i hi rfl
    exact (decodeByte_encodeByte hi).symm
  case completes =>
    intro s _
    exact ⟨_, Machine.dispatch_eq b s⟩

end Sys2Proof.Encoding
end

section
/-! PROOFS. The serial link (spec/40_serial_link.md, section 1 and section 3): the frame reset of STB_RISE, the
shift-out edge, and how long an exhausted key report stands on DIO. -/

namespace Sys2Proof.SerialLink

open Machine

/-! One step, by the edge it takes. -/

/-- A step on STB_RISE is the frame reset of R75. -/
theorem step_stbRise {s : State} {rest : List Event} (he : s.events = .stbRise :: rest) :
    step s = .next (stbRise { s with events := rest }) := step_of_events he

/-- A step on STB_FALL takes the event and nothing else (R76, decision D5). -/
theorem step_stbFall {s : State} {rest : List Event} (he : s.events = .stbFall :: rest) :
    step s = .next { s with events := rest } := step_of_events he

/-- In key-read mode a step on CLK_FALL is one shift-out edge (R84). -/
theorem step_clkFall_of_reading {s : State} {rest : List Event} (he : s.events = .clkFall :: rest)
    (hr : s.readingKeys = true) : step s = .next (shiftOut { s with events := rest }) := by
  rw [step_of_events he]
  exact congrArg Host.Outcome.next (clkFall_of_reading (s := { s with events := rest }) hr)

/-- Outside key-read mode a step on CLK_FALL takes the event and nothing else (R85). -/
theorem step_clkFall_of_not_reading {s : State} {rest : List Event} (he : s.events = .clkFall :: rest)
    (hr : s.readingKeys = false) : step s = .next { s with events := rest } := by
  rw [step_of_events he]
  exact congrArg Host.Outcome.next (clkFall_of_not_reading (s := { s with events := rest }) hr)

/-! STB_RISE (R75). -/

/-- R75's corner case: a second frame reset finds nothing left to reset. -/
theorem stbRise_stbRise (s : State) : stbRise (stbRise s) = stbRise s := rfl

theorem stbRise_pins_dio (s : State) : (stbRise s).pins.dio = none := rfl

/-- Settles O15: the frame reset field by field, and its idempotence over the STB_FALL between. -/
theorem stbRiseResetsTheFrame : Obligations.StbRiseResetsTheFrame := by
  refine ⟨fun s rest he => (step_stbRise he).trans (by rw [stbRise_spec]), fun s rest => ?idempotent⟩
  case idempotent =>
    calc runSteps 3 { s with events := .stbRise :: .stbFall :: .stbRise :: rest }
        = runSteps 2 (stbRise { s with events := .stbFall :: .stbRise :: rest }) :=
          runSteps_succ 2 (step_stbRise rfl)
      _ = runSteps 1 (stbRise { s with events := .stbRise :: rest }) := runSteps_succ 1 (step_stbFall rfl)
      _ = .next (stbRise (stbRise { s with events := rest })) := runSteps_one (step_stbRise rfl)
      _ = .next (stbRise { s with events := rest }) := by rw [stbRise_stbRise]
      _ = runSteps 1 { s with events := .stbRise :: rest } :=
          (runSteps_one (step_stbRise (s := { s with events := .stbRise :: rest }) rfl)).symm

/-! The shift-out edge (R84, R86). -/

/-- R9's `lvl` as the condition it is written as in the statements. -/
theorem lvl_eq_ite (b : Bool) : lvl b = if b then .H else .L := by cases b <;> rfl

/-- Below 24 a shift-out edge drives the bit that the counter counts to, and counts it. -/
theorem shiftOut_of_lt {s : State} (h : s.keyBitCounter.toNat / 8 < 3) :
    shiftOut s =
      { s with
        dioOut := lvl (s.keyData[s.keyBitCounter.toNat / 8].getLsbD (s.keyBitCounter.toNat % 8))
        keyBitCounter := s.keyBitCounter + 1 } := by
  obtain ⟨_, e⟩ | ⟨h24, _⟩ := shiftOut_cases s
  · exact e
  · omega

/-- From 24 on a shift-out edge does nothing. -/
theorem shiftOut_of_exhausted {s : State} (h : ¬ s.keyBitCounter.toNat / 8 < 3) : shiftOut s = s := by
  obtain ⟨h3, _⟩ | ⟨_, e⟩ := shiftOut_cases s
  · exact absurd h3 h
  · exact e

/-- A report with 24 bits shifted out is exhausted. -/
theorem exhausted_of_eq {s : State} (h : s.keyBitCounter = 24) : ¬ s.keyBitCounter.toNat / 8 < 3 := by
  rw [h]; decide

/-- Bit 7 of the report's last byte, which the 24th edge drives, is no key's bit (R35, item 6). -/
theorem report_lastBit_clear {s : State} (hi : Machine.Inv s) : s.keyData[2][7] = false := by
  obtain ⟨-, -, hlast⟩ := hi.report
  simpa using congrArg (·.getLsbD 7) hlast

/-- Settles O19: the two cases of the shift-out edge, and bit 23 of the report, which is never set. -/
theorem clkFallDrivesOneReportBit : Obligations.ClkFallDrivesOneReportBit := by
  intro s rest he
  refine ⟨fun hr h => ?drives, fun hr h => ?exhausted, step_clkFall_of_not_reading he, fun hi hr h23 => ?last⟩
  case drives =>
    rw [step_clkFall_of_reading he hr, shiftOut_of_lt (s := { s with events := rest }) h, lvl_eq_ite]
  case exhausted =>
    rw [step_clkFall_of_reading he hr, shiftOut_of_exhausted (s := { s with events := rest }) h]
  case last =>
    have h : s.keyBitCounter.toNat / 8 < 3 := by rw [h23]; decide
    refine ⟨_, step_clkFall_of_reading he hr, ?_⟩
    rw [shiftOut_of_lt (s := { s with events := rest }) h]
    simp [h23, report_lastBit_clear hi]

/-! How long an exhausted report holds (R86). -/

/-- The level the block shows on DIO depends on the direction and the driven level alone (R27). -/
theorem pins_dio_congr {s t : State} (hdir : t.dioDir = s.dioDir) (hout : t.dioOut = s.dioOut) :
    t.pins.dio = s.pins.dio := by
  simp only [State.pins, hdir, hout]

/-- With the report exhausted, a step that is not an STB_RISE writes no field of the key-read side: the mode, the
counter, and the direction and level of DIO. -/
theorem step_of_exhausted {s t : State} (hr : s.readingKeys = true) (h24 : s.keyBitCounter = 24)
    (h : step s = .next t) (hstb : ∀ rest, s.events ≠ .stbRise :: rest) :
    t.readingKeys = s.readingKeys ∧ t.keyBitCounter = s.keyBitCounter ∧ t.dioDir = s.dioDir ∧
      t.dioOut = s.dioOut := by
  have hreading : s.readingKeys ≠ false := by simp [hr]
  obtain ⟨_, rfl⟩ | ⟨_, he, _⟩ | ⟨_, _, rfl⟩ | ⟨_, _, _, _, rfl⟩ | ⟨_, _, _, hr', _⟩ |
    ⟨_, _, _, _, ⟨_, _, _, hr', _⟩, _⟩ | ⟨_, _, hr', _⟩ | ⟨rest, _, _, rfl⟩ | ⟨k1, rest, _, rfl⟩ := step_cases h
  · -- nothing pending
    exact ⟨rfl, rfl, rfl, rfl⟩
  · -- STB_RISE
    exact absurd he (hstb _)
  · -- STB_FALL
    exact ⟨rfl, rfl, rfl, rfl⟩
  · -- CLK_RISE in key-read mode
    exact ⟨rfl, rfl, rfl, rfl⟩
  · -- CLK_RISE that shifts a bit in
    exact absurd hr' hreading
  · -- CLK_RISE that completes a byte
    exact absurd hr' hreading
  · -- CLK_FALL outside key-read mode
    exact absurd hr' hreading
  · -- CLK_FALL in key-read mode
    rw [shiftOut_of_exhausted (s := { s with events := rest }) (exhausted_of_eq h24)]
    exact ⟨rfl, rfl, rfl, rfl⟩
  · -- a tick
    obtain ⟨_, _, _, _, _, e⟩ := tick_frame k1 { s with events := rest }
    rw [e]
    exact ⟨rfl, rfl, rfl, rfl⟩

/-! How key-read mode is entered (R91, R124). -/

/-- The only instruction that enters key-read mode is a Data Command Setting with bit R set. -/
theorem eq_dataSet_of_afterInstr_reads {i : Instr} {s : State} (h : (afterInstr i s).readingKeys = true)
    (hs : s.readingKeys = false) : ∃ x f x0, i = .dataSet x f true x0 := by
  have hreceiving : s.readingKeys ≠ true := by simp [hs]
  cases i with
  | displayModeSet m => exact absurd h hreceiving
  | dataSet x f r x0 =>
    cases r with
    | true => exact ⟨x, f, x0, rfl⟩
    | false => exact absurd h hreceiving
  | displayControl x e b => exact absurd h hreceiving
  | addressSet x a => exact absurd h hreceiving
  | dataWrite d =>
    rw [afterInstr] at h
    split at h <;> exact absurd h hreceiving

/-- A byte that decodes to a Data Command Setting came in command mode, with bits 7:6 equal to 01 and R at bit 1
(R62). -/
theorem of_decodeByte_eq_dataSet {mode : Bool} {b : Byte} {x : BitVec 3} {f r x0 : Bool}
    (h : decodeByte mode b = .dataSet x f r x0) : mode = true ∧ topBits b = 1#2 ∧ b.getLsbD 1 = r := by
  have hmode := Encoding.wellFormed_decodeByte mode b
  have hb := Encoding.encodeByte_decodeByte mode b
  rw [h] at hmode hb
  have bits := Encoding.getLsbD_encodeByte_dataSet x f r x0
  rw [hb] at bits
  refine ⟨hmode, BitVec.eq_of_getLsbD_eq fun k hk => ?top, bits 1⟩
  case top =>
    obtain rfl | rfl : k = 0 ∨ k = 1 := by omega
    all_goals rw [topBits, BitVec.getLsbD_extractLsb', bits]; rfl

/-- A step enters key-read mode only by completing a key-read command. -/
theorem completes_keyRead_of_step_enters {s t : State} (hs : s.readingKeys = false) (h : step s = .next t)
    (ht : t.readingKeys = true) :
    ∃ b x f x0, CompletesByte s b ∧ decodeByte s.commandMode b = .dataSet x f true x0 := by
  have hreceiving : s.readingKeys ≠ true := by simp [hs]
  obtain ⟨_, rfl⟩ | ⟨_, _, rfl⟩ | ⟨_, _, rfl⟩ | ⟨_, _, _, hr, _⟩ | ⟨_, _, _, _, _, rfl⟩ |
    ⟨b, _, _, _, hb, rfl⟩ | ⟨_, _, _, rfl⟩ | ⟨_, _, hr, _⟩ | ⟨k1, rest, _, rfl⟩ := step_cases h
  · -- nothing pending
    exact absurd ht hreceiving
  · -- STB_RISE
    cases ht
  · -- STB_FALL
    exact absurd ht hreceiving
  · -- CLK_RISE in key-read mode
    exact absurd hr hreceiving
  · -- CLK_RISE that shifts a bit in
    exact absurd ht hreceiving
  · -- CLK_RISE that completes a byte
    obtain ⟨x, f, x0, hi⟩ := eq_dataSet_of_afterInstr_reads ht hs
    exact ⟨b, x, f, x0, hb, hi⟩
  · -- CLK_FALL outside key-read mode
    exact absurd ht hreceiving
  · -- CLK_FALL in key-read mode
    exact absurd hr hreceiving
  · -- a tick
    obtain ⟨_, _, _, _, _, e⟩ := tick_frame k1 { s with events := rest }
    rw [e] at ht
    exact absurd ht hreceiving

/-- Settles O20: the exhausted report holds over every other step, STB_RISE releases DIO, and the mode's one entry is
the key-read command. -/
theorem exhaustedReportHoldsUntilStbRise : Obligations.ExhaustedReportHoldsUntilStbRise := by
  refine ⟨fun s t hr h24 h hstb => ?holds, fun s rest hr h24 he => ?noEffect, fun s rest he => ?released,
    fun s t hs h ht => ?entered⟩
  case holds =>
    obtain ⟨hmode, hcounter, hdir, hout⟩ := step_of_exhausted hr h24 h hstb
    exact ⟨hmode.trans hr, hcounter.trans h24, pins_dio_congr hdir hout⟩
  case noEffect =>
    rw [step_clkFall_of_reading he hr, shiftOut_of_exhausted (s := { s with events := rest }) (exhausted_of_eq h24)]
  case released => exact ⟨_, step_stbRise he, rfl, stbRise_pins_dio _⟩
  case entered =>
    obtain ⟨b, x, f, x0, hb, hi⟩ := completes_keyRead_of_step_enters hs h ht
    exact ⟨b, hb, of_decodeByte_eq_dataSet hi⟩

end Sys2Proof.SerialLink
end

section
/-! PROOFS. The command processor (spec/41_commands.md): which command a byte is dispatched to, the next state of
each, and what an address without storage, 14 or 15, does to the bytes that follow. -/

namespace Sys2Proof.Commands

open Machine

/-! The dispatch of a byte, by bits 7:6 (R88). -/

theorem getLsbD_of_topBits {b : Byte} {t : BitVec 2} (h : topBits b = t) :
    b.getLsbD 7 = t.getLsbD 1 ∧ b.getLsbD 6 = t.getLsbD 0 := by
  subst h
  simp [topBits]

/-- In command mode a byte runs the command it is read as. -/
theorem dispatch_command {b : Byte} {s : State} {i : Instr} (hc : s.commandMode = true)
    (h : decodeByte true b = i) : dispatch b s = exec i s := by
  rw [dispatch, hc, h]

theorem dispatch_displayModeSet {b : Byte} {s : State} (hc : s.commandMode = true) (h : topBits b = 0#2) :
    dispatch b s = exec (.displayModeSet (b.extractLsb' 0 6)) s :=
  have ⟨h7, h6⟩ := getLsbD_of_topBits h
  dispatch_command hc (Encoding.decodeByte_displayModeSet h7 h6)

theorem dispatch_dataSet {b : Byte} {s : State} (hc : s.commandMode = true) (h : topBits b = 1#2) :
    dispatch b s = exec (.dataSet (b.extractLsb' 3 3) (b.getLsbD 2) (b.getLsbD 1) (b.getLsbD 0)) s :=
  have ⟨h7, h6⟩ := getLsbD_of_topBits h
  dispatch_command hc (Encoding.decodeByte_dataSet h7 h6)

theorem dispatch_displayControl {b : Byte} {s : State} (hc : s.commandMode = true) (h : topBits b = 2#2) :
    dispatch b s = exec (.displayControl (b.extractLsb' 4 2) (b.getLsbD 3) (b.extractLsb' 0 3)) s :=
  have ⟨h7, h6⟩ := getLsbD_of_topBits h
  dispatch_command hc (Encoding.decodeByte_displayControl h7 h6)

theorem dispatch_addressSet {b : Byte} {s : State} (hc : s.commandMode = true) (h : topBits b = 3#2) :
    dispatch b s = exec (.addressSet (b.extractLsb' 4 2) (b.extractLsb' 0 4)) s :=
  have ⟨h7, h6⟩ := getLsbD_of_topBits h
  dispatch_command hc (Encoding.decodeByte_addressSet h7 h6)

/-- Outside command mode every byte is data. -/
theorem dispatch_dataWrite (b : Byte) {s : State} (hd : s.commandMode = false) :
    dispatch b s = exec (.dataWrite b) s := by
  rw [dispatch, hd, decodeByte_data]

/-- Settles O12: the four commands by bits 7:6, and data. -/
theorem dispatchFollowsTheTopTwoBits : Obligations.DispatchFollowsTheTopTwoBits := fun b _ =>
  ⟨fun hc =>
      ⟨dispatch_displayModeSet hc, dispatch_dataSet hc, dispatch_displayControl hc, dispatch_addressSet hc⟩,
    dispatch_dataWrite b⟩

/-! The next state of each instruction but Data Command Setting, as its rule gives it. -/

theorem exec_displayModeSet (m : BitVec 6) (s : State) : exec (.displayModeSet m) s = .next s :=
  exec_eq _ _

theorem exec_displayControl (x : BitVec 2) (e : Bool) (b : BitVec 3) (s : State) :
    exec (.displayControl x e b) s = .next { s with displayOn := e } :=
  exec_eq _ _

theorem exec_addressSet (x : BitVec 2) (a : BitVec 4) (s : State) :
    exec (.addressSet x a) s = .next { s with address := a, commandMode := false } :=
  exec_eq _ _

/-- Below 14 a data byte is stored, and the address advances with auto-increment (R97). -/
theorem exec_dataWrite_of_lt (d : Byte) {s : State} (h : s.address.toNat < 14) :
    exec (.dataWrite d) s =
      .next { s with
        ram := s.ram.write s.address.toNat d
        address := if s.autoInc then BitVec.ofNat 4 ((s.address.toNat + 1) % 14) else s.address } := by
  rw [exec_eq, afterInstr, if_pos h]

/-- At 14 and 15 a data byte does nothing. -/
theorem afterInstr_dataWrite_of_ge (d : Byte) {s : State} (h : 14 ≤ s.address.toNat) :
    afterInstr (.dataWrite d) s = s :=
  if_neg (Nat.not_lt.2 h)

theorem exec_dataWrite_of_ge (d : Byte) {s : State} (h : 14 ≤ s.address.toNat) :
    exec (.dataWrite d) s = .next s := by
  rw [exec_eq, afterInstr_dataWrite_of_ge d h]

/-- Settles O5: the instruction, and the bytes that are dispatched to it. -/
theorem displayModeSetIsInert : Obligations.DisplayModeSetIsInert :=
  ⟨exec_displayModeSet, fun _ _ hc h => (dispatch_displayModeSet hc h).trans (exec_displayModeSet _ _)⟩

/-- Settles O8: the instruction, and the bytes that are dispatched to it. -/
theorem displayControlSetsDisplayOnOnly : Obligations.DisplayControlSetsDisplayOnOnly :=
  ⟨exec_displayControl, fun _ _ hc h => (dispatch_displayControl hc h).trans (exec_displayControl _ _ _ _)⟩

/-- Settles O9: the instruction, and the bytes that are dispatched to it. -/
theorem addressSetLoadsAddress : Obligations.AddressSetLoadsAddress :=
  ⟨exec_addressSet, fun _ _ hc h => (dispatch_addressSet hc h).trans (exec_addressSet _ _ _)⟩

/-- Settles O10: the RAM after the write is `Memory.write`, which its reads determine. -/
theorem dataWriteStoresAtAddress : Obligations.DataWriteStoresAtAddress := by
  intro d s
  refine ⟨fun h => ?stored, exec_dataWrite_of_ge d, dispatch_dataWrite d⟩
  case stored =>
    exact ⟨s.ram.write s.address.toNat d, exec_dataWrite_of_lt d h, Memory.read_write_self _ _ _,
      fun _ ha => Memory.read_write_of_ne _ d ha⟩

/-! An address of 14 or 15 (R96). -/

/-- Only a completed byte writes the command processor's fields: the RAM, the address, the addressing mode and the
display enable. -/
theorem step_completes_or_leaves_commandFields {s t : State} (h : step s = .next t) :
    (t.ram = s.ram ∧ t.address = s.address ∧ t.autoInc = s.autoInc ∧ t.displayOn = s.displayOn) ∨
    ∃ b rest, CompletesByte s b ∧
      t = afterInstr (decodeByte s.commandMode b) { s with events := rest, currentByte := 0, bitIndex := 0 } := by
  obtain ⟨_, rfl⟩ | ⟨_, _, rfl⟩ | ⟨_, _, rfl⟩ | ⟨_, _, _, _, rfl⟩ | ⟨_, _, _, _, _, rfl⟩ |
    ⟨b, _, rest, _, hb, rfl⟩ | ⟨_, _, _, rfl⟩ | ⟨rest, _, _, rfl⟩ | ⟨k1, rest, _, rfl⟩ := step_cases h
  · -- nothing pending
    exact .inl ⟨rfl, rfl, rfl, rfl⟩
  · -- STB_RISE
    exact .inl ⟨rfl, rfl, rfl, rfl⟩
  · -- STB_FALL
    exact .inl ⟨rfl, rfl, rfl, rfl⟩
  · -- CLK_RISE in key-read mode
    exact .inl ⟨rfl, rfl, rfl, rfl⟩
  · -- CLK_RISE that shifts a bit in
    exact .inl ⟨rfl, rfl, rfl, rfl⟩
  · -- CLK_RISE that completes a byte
    exact .inr ⟨b, rest, hb, rfl⟩
  · -- CLK_FALL outside key-read mode
    exact .inl ⟨rfl, rfl, rfl, rfl⟩
  · -- CLK_FALL in key-read mode
    obtain ⟨_, _, e⟩ := shiftOut_frame { s with events := rest }
    rw [e]
    exact .inl ⟨rfl, rfl, rfl, rfl⟩
  · -- a tick
    obtain ⟨_, _, _, _, _, e⟩ := tick_frame k1 { s with events := rest }
    rw [e]
    exact .inl ⟨rfl, rfl, rfl, rfl⟩

/-- At 14 and 15 the one instruction that moves the address is ADDRESS_SET, and none writes the RAM. -/
theorem afterInstr_of_held (i : Instr) {s : State} (h : 14 ≤ s.address.toNat) :
    ((afterInstr i s).address = s.address ∧ (afterInstr i s).ram = s.ram) ∨
    ∃ x a, i = .addressSet x a ∧ (afterInstr i s).address = a := by
  cases i with
  | displayModeSet m => exact .inl ⟨rfl, rfl⟩
  | dataSet x f r x0 => cases r <;> exact .inl ⟨rfl, rfl⟩
  | displayControl x e b => exact .inl ⟨rfl, rfl⟩
  | addressSet x a => exact .inr ⟨x, a, rfl, rfl⟩
  | dataWrite d => rw [afterInstr_dataWrite_of_ge d h]; exact .inl ⟨rfl, rfl⟩

/-- A byte that decodes to an Address Setting came in command mode, with bits 7:6 equal to 11 and the address in bits
3:0 (R64). -/
theorem of_decodeByte_eq_addressSet {mode : Bool} {b : Byte} {x : BitVec 2} {a : BitVec 4}
    (h : decodeByte mode b = .addressSet x a) : mode = true ∧ topBits b = 3#2 ∧ a = b.extractLsb' 0 4 := by
  have hmode := Encoding.wellFormed_decodeByte mode b
  have hb := Encoding.encodeByte_decodeByte mode b
  rw [h] at hmode hb
  subst hb
  refine ⟨hmode, BitVec.eq_of_getLsbD_eq fun k hk => ?top,
    (Encoding.field_eq_of_getLsbD fun k hk => ?address).symm⟩
  case top => grind [topBits, Encoding.getLsbD_encodeByte_addressSet]
  case address => rw [Encoding.getLsbD_encodeByte_addressSet, Nat.zero_add, if_pos hk]

/-- Settles O11: ADDRESS_SET holds 14 and 15, and of the bytes a step can complete only another ADDRESS_SET moves
the address again. -/
theorem addressFourteenAndFifteenAreHeld : Obligations.AddressFourteenAndFifteenAreHeld := by
  refine ⟨fun x a s ha => ?loaded, fun s t h hs => ?held⟩
  case loaded =>
    exact ⟨_, exec_addressSet x a s, rfl, fun d => exec_dataWrite_of_ge d ha⟩
  case held =>
    obtain ⟨hram, haddress, -, -⟩ | ⟨b, rest, hb, rfl⟩ := step_completes_or_leaves_commandFields h
    · exact .inl ⟨haddress, hram⟩
    · obtain hkept | ⟨x, a, hi, ha⟩ := afterInstr_of_held (decodeByte s.commandMode b)
        (s := { s with events := rest, currentByte := 0, bitIndex := 0 }) hs
      · exact .inl hkept
      · obtain ⟨hc, htop, hbits⟩ := of_decodeByte_eq_addressSet hi
        exact .inr ⟨b, hb, hc, htop, ha.trans hbits⟩

end Sys2Proof.Commands
end

section
/-! PROOFS. The multiplex engine (spec/42_multiplex.md, sections 1 to 3): what the step on a tick is in either phase,
that a scan is a function of its samples alone, and the display phase with the display off. -/

namespace Sys2Proof.Multiplex

open Machine

/-! One step on a tick, by the phase it runs (R100). -/

/-- In the scan phase a tick is one scan, and a display phase is next. -/
theorem step_tick_scan {s : State} {k1 : Vector Level 5} {rest : List Event} (he : s.events = .tick k1 :: rest)
    (hp : s.phase = .scan) :
    step s = .next { scanPhase k1 { s with events := rest } with phase := .display } :=
  calc step s = .next (tick k1 { s with events := rest }) := step_of_events he
    _ = .next { scanPhase k1 { s with events := rest } with phase := .display } :=
      congrArg _ (tick_scan k1 (s := { s with events := rest }) hp)

/-- In the display phase a tick is one display phase, and a scan is next. -/
theorem step_tick_display {s : State} {k1 : Vector Level 5} {rest : List Event} (he : s.events = .tick k1 :: rest)
    (hp : s.phase = .display) :
    step s = .next { displayPhase { s with events := rest } with phase := .scan } :=
  calc step s = .next (tick k1 { s with events := rest }) := step_of_events he
    _ = .next { displayPhase { s with events := rest } with phase := .scan } :=
      congrArg _ (tick_display k1 (s := { s with events := rest }) hp)

/-- Settles O25: the two phases of a tick, and the phase of the reset state. -/
theorem tickAlternatesThePhases : Obligations.TickAlternatesThePhases :=
  ⟨rfl, fun _ _ _ he => ⟨step_tick_scan he, step_tick_display he⟩⟩

/-! The scan phase (R102 to R106). -/

/-- A scan tick, field by field: blank grids, the report of the samples, the scan lines as line 4 left them (R105). -/
theorem step_tick_scan_spec {s : State} {k1 : Vector Level 5} {rest : List Event}
    (he : s.events = .tick k1 :: rest) (hp : s.phase = .scan) :
    step s = .next { s with
      events := rest
      phase := .display
      keyData := scanReport k1
      grid := #v[.H, .H, .H, .H]
      seg := #v[.H, .H, .H, .H, .L, s.seg[5], s.seg[6], s.seg[7]] } := by
  rw [step_tick_scan he hp, scanPhase_spec]

theorem blankGrid_get (g : Fin 4) : (#v[.H, .H, .H, .H] : Vector Level 4)[g] = .H := by
  revert g
  decide

/-! The bytes of a scan's report, with the masks of the key-bit table (R104) written out. -/

theorem scanReport_byte0 (k1 : Vector Level 5) :
    (scanReport k1)[0] = (if k1[0] = .L then 0x02#8 else 0#8) ||| (if k1[1] = .L then 0x10#8 else 0#8) := rfl

theorem scanReport_byte1 (k1 : Vector Level 5) :
    (scanReport k1)[1] = (if k1[2] = .L then 0x02#8 else 0#8) ||| (if k1[3] = .L then 0x10#8 else 0#8) := rfl

theorem scanReport_byte2 (k1 : Vector Level 5) :
    (scanReport k1)[2] = if k1[4] = .L then 0x02#8 else 0#8 := rfl

/-- Settles O26: the grids and the report of the state a scan tick leaves. -/
theorem scanPhaseRebuildsTheReport : Obligations.ScanPhaseRebuildsTheReport := fun _ k1 _ he hp =>
  ⟨_, step_tick_scan_spec he hp, blankGrid_get, scanReport_byte0 k1, scanReport_byte1 k1, scanReport_byte2 k1⟩

/-- A display phase leaves the report alone, with the display off and on. -/
theorem displayPhase_keyData (s : State) : (displayPhase s).keyData = s.keyData := by
  rcases Bool.eq_false_or_eq_true s.displayOn with hon | hoff
  · rw [displayPhase_on hon]
  · rw [displayPhase_off hoff]

/-- Settles O28: both scans leave the report `scanReport k1`, in which no field of the state occurs; and a display
phase keeps the report and is followed by a scan. -/
theorem keyScanningIsIndependent : Obligations.KeyScanningIsIndependent := by
  refine ⟨fun s u k1 rest more hs hu hes heu => ?sameReport, fun s k1 rest hp he => ?scanFollows⟩
  case sameReport =>
    exact ⟨_, _, step_tick_scan_spec hes hs, step_tick_scan_spec heu hu, rfl, rfl⟩
  case scanFollows =>
    exact ⟨_, step_tick_display he hp, rfl, displayPhase_keyData { s with events := rest }⟩

/-! The display phase with the display off (R107). -/

/-- With the display off a display tick takes the event, and only the phase changes. -/
theorem step_tick_display_off {s : State} {k1 : Vector Level 5} {rest : List Event}
    (he : s.events = .tick k1 :: rest) (hp : s.phase = .display) (hoff : s.displayOn = false) :
    step s = .next { s with events := rest, phase := .scan } := by
  rw [step_tick_display he hp, displayPhase_off (s := { s with events := rest }) hoff]

/-- Settles O29: the tick with the display off; that nothing is lit before a display phase is R35, item 7. -/
theorem displayPhaseDoesNothingWhenOff : Obligations.DisplayPhaseDoesNothingWhenOff := fun _ _ _ he hp hoff =>
  ⟨step_tick_display_off he hp hoff, fun hi => hi.blanked hp⟩

end Sys2Proof.Multiplex
end

section
/-! PROOFS. The block has no exceptions (spec/60_exceptions.md, section 1): every instruction, every event and so every
step answers a next state. -/

namespace Sys2Proof.Exceptions

open Machine

theorem exec_completes (i : Instr) (s : State) : Completes (exec i s) := ⟨_, exec_eq i s⟩

/-- A byte decodes to an instruction in either mode, so its dispatch completes. -/
theorem dispatch_completes (b : Byte) (s : State) : Completes (dispatch b s) := exec_completes _ s

/-- CLK_RISE is ignored in key-read mode, and elsewhere it shifts a bit in or dispatches the byte it completes
(R77 to R79). -/
theorem clkRise_completes (dio : Level) (s : State) : Completes (clkRise dio s) := by
  rcases Bool.eq_false_or_eq_true s.readingKeys with hreading | hreceiving
  · exact ⟨_, clkRise_of_reading dio hreading⟩
  · rw [clkRise_of_not_reading dio hreceiving]
    split
    · exact dispatch_completes _ _
    · exact ⟨_, rfl⟩

/-- Of the five events only CLK_RISE can reach the command processor. -/
theorem handle_completes (e : Event) (s : State) : Completes (handle e s) := by
  cases e with
  | stbRise => exact ⟨_, rfl⟩
  | stbFall => exact ⟨_, rfl⟩
  | clkRise dio => exact clkRise_completes dio s
  | clkFall => exact ⟨_, rfl⟩
  | tick k1 => exact ⟨_, rfl⟩

theorem step_completes (s : State) : Completes (step s) := by
  cases hevents : s.events with
  | nil => exact ⟨s, step_of_no_events hevents⟩
  | cons e rest =>
    rw [step_of_events hevents]
    exact handle_completes e { s with events := rest }

/-- Settles O35: a step is the rule of one event or nothing, and an event's rule at most runs one instruction. -/
theorem everyEventCompletes : Obligations.EveryEventCompletes :=
  ⟨step_completes, handle_completes, exec_completes⟩

end Sys2Proof.Exceptions
end

section
/-! PROOFS. Encoded words (spec/30_encoding.md, section 7): an encoded instruction followed by other bytes, and a word
of the opcode table read in command mode. -/

namespace Sys2Proof.Encoding

/-- Settles O1: an encoding is one byte, which `decodeByte_encodeByte` reads back with the bytes after it untouched. -/
theorem decodeOfEncodeIsTheInstruction : Obligations.DecodeOfEncodeIsTheInstruction := by
  intro mode i rest h
  calc decode mode (encode i ++ rest)
      = .ok (decodeByte mode (encodeByte i), rest) := rfl
    _ = .ok (i, rest) := by rw [decodeByte_encodeByte h]

/-- A number's low byte does not see its higher bits. -/
theorem ofNat_mod_byte (w : Nat) : BitVec.ofNat 8 (w % 2 ^ 8) = BitVec.ofNat 8 w :=
  BitVec.eq_of_toNat_eq (by simp)

/-- A table word of 8 bits is its low byte, read in command mode. -/
theorem decodeTableWord_byte (w : Nat) :
    decodeTableWord 8 w = some (decodeByte true (BitVec.ofNat 8 w)) := by
  rw [← ofNat_mod_byte]
  rfl

/-- Settles O3: a table word is a byte read in command mode, and each byte's fields are read off its bits. -/
theorem sampleWordsDecodeAsTheSpecSays : Obligations.SampleWordsDecodeAsTheSpecSays := by
  simp only [Obligations.SampleWordsDecodeAsTheSpecSays, decodeTableWord_byte]
  exact ⟨rfl, rfl, rfl, rfl, rfl, rfl, rfl⟩

end Sys2Proof.Encoding
end

section
/-! PROOFS. What a step leaves alone and who writes each field (spec/10_state.md, section 2; spec/20_memory.md,
section 6): the order of the events, the fields of the command processor, and the two sides of the block. -/

namespace Sys2Proof.Writers

open Machine

/-! The order of the events (R52). -/

/-- An instruction does not write the accumulator, the events still to come, or what the multiplex engine owns. -/
theorem afterInstr_frame (i : Instr) (s : State) :
    ∃ ram address autoInc displayOn mode reading counter dir out draws,
      afterInstr i s = { s with
        ram := ram, address := address, autoInc := autoInc, displayOn := displayOn, commandMode := mode,
        readingKeys := reading, keyBitCounter := counter, dioDir := dir, dioOut := out, draws := draws } := by
  cases i with
  | displayModeSet m => exact ⟨_, _, _, _, _, _, _, _, _, _, rfl⟩
  | dataSet x f r x0 => cases r <;> exact ⟨_, _, _, _, _, _, _, _, _, _, rfl⟩
  | displayControl x e b => exact ⟨_, _, _, _, _, _, _, _, _, _, rfl⟩
  | addressSet x a => exact ⟨_, _, _, _, _, _, _, _, _, _, rfl⟩
  | dataWrite d =>
    rw [afterInstr]
    split
    · exact ⟨_, _, _, _, _, _, _, _, _, _, rfl⟩
    · exact ⟨_, _, _, _, _, _, _, _, _, _, rfl⟩

/-- What a step changes. Four of the cases of `step_cases` change nothing but the events pending (none pending,
STB_FALL, CLK_RISE in key-read mode, CLK_FALL outside it) and are one case here. -/
theorem step_changes {s t : State} (h : step s = .next t) :
    t = { s with events := s.events.tail } ∨
    (∃ rest, s.events = .stbRise :: rest ∧ t = stbRise { s with events := rest }) ∨
    (∃ d rest, s.events = .clkRise d :: rest ∧ s.readingKeys = false ∧ s.bitIndex ≠ 7 ∧
      t = shiftIn (bit (pinReadDio d s)) { s with events := rest }) ∨
    (∃ b d rest, s.events = .clkRise d :: rest ∧ CompletesByte s b ∧
      t = afterInstr (decodeByte s.commandMode b) { s with events := rest, currentByte := 0, bitIndex := 0 }) ∨
    (∃ rest, s.events = .clkFall :: rest ∧ s.readingKeys = true ∧ t = shiftOut { s with events := rest }) ∨
    (∃ k1 rest, s.events = .tick k1 :: rest ∧ t = tick k1 { s with events := rest }) := by
  obtain ⟨he, rfl⟩ | hstb | ⟨_, he, rfl⟩ | ⟨_, _, he, _, rfl⟩ | hshift | hbyte | ⟨_, he, _, rfl⟩ | hedge | htick :=
    step_cases h
  · exact .inl (by rw [he, List.tail_nil, ← he])
  · exact .inr (.inl hstb)
  · exact .inl (by rw [he, List.tail_cons])
  · exact .inl (by rw [he, List.tail_cons])
  · exact .inr (.inr (.inl hshift))
  · exact .inr (.inr (.inr (.inl hbyte)))
  · exact .inl (by rw [he, List.tail_cons])
  · exact .inr (.inr (.inr (.inr (.inl hedge))))
  · exact .inr (.inr (.inr (.inr (.inr htick))))

/-- A step takes the first event and puts none in its place. -/
theorem step_events {s t : State} (h : step s = .next t) : t.events = s.events.tail := by
  obtain rfl | ⟨_, he, rfl⟩ | ⟨_, _, he, _, _, rfl⟩ | ⟨b, _, rest, he, _, rfl⟩ | ⟨rest, he, _, rfl⟩ |
    ⟨k1, rest, he, rfl⟩ := step_changes h
  · rfl
  · -- STB_RISE
    rw [he]; rfl
  · -- CLK_RISE that shifts a bit in
    rw [he]; rfl
  · -- CLK_RISE that completes a byte
    obtain ⟨_, _, _, _, _, _, _, _, _, _, e⟩ := afterInstr_frame (decodeByte s.commandMode b)
      { s with events := rest, currentByte := 0, bitIndex := 0 }
    rw [e, he]; rfl
  · -- CLK_FALL in key-read mode
    obtain ⟨_, _, e⟩ := shiftOut_frame { s with events := rest }
    rw [e, he]; rfl
  · -- a tick
    obtain ⟨_, _, _, _, _, e⟩ := tick_frame k1 { s with events := rest }
    rw [e, he]; rfl

/-- Settles O36: a step is the first event's rule, which completes and leaves the other events pending. -/
theorem eventsHappenOneByOneInOrder : Obligations.EventsHappenOneByOneInOrder := by
  refine ⟨fun s e rest he => ⟨step_of_events he, ?_⟩, fun s he => step_of_no_events he⟩
  obtain ⟨t, h⟩ := Exceptions.step_completes s
  exact ⟨t, h, by rw [step_events h, he, List.tail_cons]⟩

/-! The writers of the command processor's fields (R14 to R17). -/

/-- A byte that decodes to a Display Control came in command mode, with bits 7:6 equal to 10 (R63). -/
theorem of_decodeByte_eq_displayControl {mode : Bool} {b : Byte} {x : BitVec 2} {e : Bool} {v : BitVec 3}
    (h : decodeByte mode b = .displayControl x e v) : mode = true ∧ topBits b = 2#2 := by
  have hmode := Encoding.wellFormed_decodeByte mode b
  have hb := Encoding.encodeByte_decodeByte mode b
  rw [h] at hmode hb
  subst hb
  exact ⟨hmode, BitVec.eq_of_getLsbD_eq fun k hk => by grind [topBits, Encoding.getLsbD_encodeByte_displayControl]⟩

/-- A byte that decodes to a data byte came outside command mode and is that byte (R65). -/
theorem of_decodeByte_eq_dataWrite {mode : Bool} {b d : Byte} (h : decodeByte mode b = .dataWrite d) :
    mode = false ∧ b = d := by
  have hmode := Encoding.wellFormed_decodeByte mode b
  have hb := Encoding.encodeByte_decodeByte mode b
  rw [h] at hmode hb
  exact ⟨by simpa [WellFormed] using hmode, hb.symm⟩

/-- An instruction moves the address only below 14, but for ADDRESS_SET. -/
theorem afterInstr_address (i : Instr) (s : State) :
    (afterInstr i s).address = s.address ∨ (afterInstr i s).address.toNat < 14 ∨
    ∃ x a, i = .addressSet x a ∧ (afterInstr i s).address = a := by
  cases i with
  | displayModeSet m => exact .inl rfl
  | dataSet x f r x0 => cases r <;> exact .inl rfl
  | displayControl x e b => exact .inl rfl
  | addressSet x a => exact .inr (.inr ⟨x, a, rfl, rfl⟩)
  | dataWrite d =>
    rw [afterInstr]
    split
    · rename_i hlt
      refine .inr (.inl ?_)
      change (if s.autoInc then _ else s.address).toNat < 14
      split
      · rw [BitVec.toNat_ofNat]
        omega
      · exact hlt
    · exact .inl rfl

/-- An instruction that writes the RAM is a data byte, stored at an address below 14 (R40). -/
theorem afterInstr_ram (i : Instr) (s : State) :
    (afterInstr i s).ram = s.ram ∨
    ∃ d, i = .dataWrite d ∧ s.address.toNat < 14 ∧ (afterInstr i s).ram = s.ram.write s.address.toNat d := by
  cases i with
  | displayModeSet m => exact .inl rfl
  | dataSet x f r x0 => cases r <;> exact .inl rfl
  | displayControl x e b => exact .inl rfl
  | addressSet x a => exact .inl rfl
  | dataWrite d =>
    rw [afterInstr]
    split
    · rename_i hlt
      exact .inr ⟨d, rfl, hlt, rfl⟩
    · exact .inl rfl

/-- An instruction that writes the addressing mode is a Data Command Setting. -/
theorem afterInstr_autoInc (i : Instr) (s : State) :
    (afterInstr i s).autoInc = s.autoInc ∨ ∃ x f r x0, i = .dataSet x f r x0 := by
  cases i with
  | displayModeSet m => exact .inl rfl
  | dataSet x f r x0 => exact .inr ⟨x, f, r, x0, rfl⟩
  | displayControl x e b => exact .inl rfl
  | addressSet x a => exact .inl rfl
  | dataWrite d => rw [afterInstr]; split <;> exact .inl rfl

/-- An instruction that writes the display enable is a Display Control. -/
theorem afterInstr_displayOn (i : Instr) (s : State) :
    (afterInstr i s).displayOn = s.displayOn ∨ ∃ x e b, i = .displayControl x e b := by
  cases i with
  | displayModeSet m => exact .inl rfl
  | dataSet x f r x0 => cases r <;> exact .inl rfl
  | displayControl x e b => exact .inr ⟨x, e, b, rfl⟩
  | addressSet x a => exact .inl rfl
  | dataWrite d => rw [afterInstr]; split <;> exact .inl rfl

/-- Settles O39: a completed byte moves the address below 14 or is an ADDRESS_SET. -/
theorem addressReachesFourteenOnlyByAddressSet : Obligations.AddressReachesFourteenOnlyByAddressSet := by
  intro s t h h14 hne
  obtain ⟨-, haddress, -, -⟩ | ⟨b, rest, hb, rfl⟩ := Commands.step_completes_or_leaves_commandFields h
  · exact absurd haddress hne
  · obtain hkept | hlt | ⟨x, a, hi, ha⟩ := afterInstr_address (decodeByte s.commandMode b)
      { s with events := rest, currentByte := 0, bitIndex := 0 }
    · exact absurd hkept hne
    · omega
    · obtain ⟨hc, htop, hbits⟩ := Commands.of_decodeByte_eq_addressSet hi
      exact ⟨b, hb, hc, htop, ha.trans hbits⟩

/-- Settles O40: the RAM's one writer is a data byte below 14, and `Memory.write` changes one address. -/
theorem ramChangesOnlyByADataByte : Obligations.RamChangesOnlyByADataByte := by
  intro s t h hne
  obtain ⟨hram, -, -, -⟩ | ⟨b, rest, hb, rfl⟩ := Commands.step_completes_or_leaves_commandFields h
  · exact absurd hram hne
  · obtain hkept | ⟨d, hi, hlt, hram⟩ := afterInstr_ram (decodeByte s.commandMode b)
      { s with events := rest, currentByte := 0, bitIndex := 0 }
    · exact absurd hkept hne
    · obtain ⟨hd, rfl⟩ := of_decodeByte_eq_dataWrite hi
      rw [hram]
      exact ⟨b, hb, hd, hlt, Memory.read_write_self _ _ _, fun _ ha => Memory.read_write_of_ne _ b ha⟩

/-- Settles O41: each flag has one instruction that writes it. -/
theorem controlFlagsHaveOneWriterEach : Obligations.ControlFlagsHaveOneWriterEach := by
  intro s t h
  obtain ⟨-, -, hinc, hon⟩ | ⟨b, rest, hb, rfl⟩ := Commands.step_completes_or_leaves_commandFields h
  · exact ⟨fun hne => absurd hinc hne, fun hne => absurd hon hne⟩
  · refine ⟨fun hne => ?autoInc, fun hne => ?displayOn⟩
    case autoInc =>
      obtain hkept | ⟨_, _, _, _, hi⟩ := afterInstr_autoInc (decodeByte s.commandMode b)
        { s with events := rest, currentByte := 0, bitIndex := 0 }
      · exact absurd hkept hne
      · obtain ⟨hc, htop, -⟩ := SerialLink.of_decodeByte_eq_dataSet hi
        exact ⟨b, hb, hc, htop⟩
    case displayOn =>
      obtain hkept | ⟨_, _, _, hi⟩ := afterInstr_displayOn (decodeByte s.commandMode b)
        { s with events := rest, currentByte := 0, bitIndex := 0 }
      · exact absurd hkept hne
      · exact ⟨b, hb, of_decodeByte_eq_displayControl hi⟩

/-! The writers of the key-read side (R20, R23, R26, R27). -/

/-- An instruction that writes a field of the key-read side is a Data Command Setting with bit R set. -/
theorem afterInstr_keyReadFields (i : Instr) (s : State) :
    ((afterInstr i s).readingKeys = s.readingKeys ∧ (afterInstr i s).dioOut = s.dioOut) ∨
    ∃ x f x0, i = .dataSet x f true x0 := by
  cases i with
  | displayModeSet m => exact .inl ⟨rfl, rfl⟩
  | dataSet x f r x0 =>
    cases r with
    | true => exact .inr ⟨x, f, x0, rfl⟩
    | false => exact .inl ⟨rfl, rfl⟩
  | displayControl x e b => exact .inl ⟨rfl, rfl⟩
  | addressSet x a => exact .inl ⟨rfl, rfl⟩
  | dataWrite d => rw [afterInstr]; split <;> exact .inl ⟨rfl, rfl⟩

/-- Settles O43: of the events that write DIO's level, a shift-out edge does so below 24, and a completed byte only
as a key-read command. -/
theorem dioLevelChangesOnlyInKeyRead : Obligations.DioLevelChangesOnlyInKeyRead := by
  intro s t h hne
  obtain rfl | ⟨_, _, rfl⟩ | ⟨_, _, _, _, _, rfl⟩ | ⟨b, _, rest, _, hb, rfl⟩ | ⟨rest, he, hr, rfl⟩ |
    ⟨k1, rest, _, rfl⟩ := step_changes h
  · -- only the events
    exact absurd rfl hne
  · -- STB_RISE
    exact absurd rfl hne
  · -- CLK_RISE that shifts a bit in
    exact absurd rfl hne
  · -- CLK_RISE that completes a byte
    obtain ⟨-, hkept⟩ | ⟨x, f, x0, hi⟩ := afterInstr_keyReadFields (decodeByte s.commandMode b)
      { s with events := rest, currentByte := 0, bitIndex := 0 }
    · exact absurd hkept hne
    · exact .inr ⟨b, hb, SerialLink.of_decodeByte_eq_dataSet hi⟩
  · -- CLK_FALL in key-read mode
    obtain ⟨hlt, _⟩ | ⟨_, e⟩ := shiftOut_cases { s with events := rest }
    · change s.keyBitCounter.toNat / 8 < 3 at hlt
      exact .inl ⟨rest, he, hr, by omega⟩
    · exact absurd (by rw [e]) hne
  · -- a tick
    obtain ⟨_, _, _, _, _, e⟩ := tick_frame k1 { s with events := rest }
    exact absurd (by rw [e]) hne

/-! The two sides of the block: the host's events and the timer's ticks. -/

/-- Settles O44: by the event; the tick is no host event. -/
theorem hostEventsLeaveTheMultiplexSide : Obligations.HostEventsLeaveTheMultiplexSide := by
  intro s t e rest hev hhost h
  obtain rfl | ⟨_, _, rfl⟩ | ⟨_, _, _, _, _, rfl⟩ | ⟨b, _, rest, _, _, rfl⟩ | ⟨rest, _, _, rfl⟩ |
    ⟨k1, rest, htick, rfl⟩ := step_changes h
  · -- only the events
    exact ⟨rfl, rfl, rfl, rfl, rfl⟩
  · -- STB_RISE
    exact ⟨rfl, rfl, rfl, rfl, rfl⟩
  · -- CLK_RISE that shifts a bit in
    exact ⟨rfl, rfl, rfl, rfl, rfl⟩
  · -- CLK_RISE that completes a byte
    obtain ⟨_, _, _, _, _, _, _, _, _, _, e⟩ := afterInstr_frame (decodeByte s.commandMode b)
      { s with events := rest, currentByte := 0, bitIndex := 0 }
    rw [e]
    exact ⟨rfl, rfl, rfl, rfl, rfl⟩
  · -- CLK_FALL in key-read mode
    obtain ⟨_, _, e⟩ := shiftOut_frame { s with events := rest }
    rw [e]
    exact ⟨rfl, rfl, rfl, rfl, rfl⟩
  · -- a tick
    obtain ⟨rfl, -⟩ := List.cons.inj (hev.symm.trans htick)
    cases hhost

/-- Settles O45: a tick writes the five fields of `tick_frame`. -/
theorem ticksLeaveTheSerialSide : Obligations.TicksLeaveTheSerialSide := by
  intro s t k1 rest he h
  obtain ⟨_, _, _, _, _, e⟩ := tick_frame k1 { s with events := rest }
  obtain rfl : tick k1 { s with events := rest } = t := by
    rw [step_of_events he] at h
    exact Host.Outcome.next.inj h
  rw [e]
  exact ⟨rfl, rfl, rfl, rfl, rfl, rfl, rfl, rfl, rfl, rfl, rfl, rfl⟩

end Sys2Proof.Writers
end

section
/-! PROOFS. The shift-in of the serial link (spec/40_serial_link.md, section 2): where a sampled bit goes, the byte that
eight of them make, and the sixteen events of `W b` (spec/30_encoding.md R73). -/

namespace Sys2Proof.ShiftIn

open Machine SerialLink

/-! One step on STB_FALL and on CLK_RISE. -/

/-- In key-read mode a step on CLK_RISE takes the event and nothing else (R79). -/
theorem step_clkRise_of_reading {s : State} {dio : Level} {rest : List Event} (he : s.events = .clkRise dio :: rest)
    (hr : s.readingKeys = true) : step s = .next { s with events := rest } := by
  rw [step_of_events he]
  exact clkRise_of_reading dio (s := { s with events := rest }) hr

/-- A step on a CLK_RISE that completes no byte shifts the host's level in (R77). -/
theorem step_shifting {s : State} {dio : Level} {rest : List Event} (he : s.events = .clkRise dio :: rest)
    (hr : s.readingKeys = false) (hin : s.dioDir = .input) (h7 : s.bitIndex ≠ 7) :
    step s = .next (shiftIn (bit dio) { s with events := rest }) := by
  rw [step_of_events he]
  change clkRise dio _ = _
  rw [clkRise_of_not_reading dio (s := { s with events := rest }) hr, if_neg h7,
    pinReadDio_input dio (s := { s with events := rest }) hin]

/-- The step that completes a byte runs the instruction the byte is read as (R78, R88). -/
theorem step_completing_exec {s : State} {dio : Level} {rest : List Event} (he : s.events = .clkRise dio :: rest)
    (hr : s.readingKeys = false) (hin : s.dioDir = .input) (h7 : s.bitIndex = 7) :
    step s = exec (decodeByte s.commandMode (shiftIn (bit dio) s).currentByte)
      { s with events := rest, currentByte := 0, bitIndex := 0 } := by
  rw [step_completing he hr h7, pinReadDio_input dio hin]
  rfl

/-- Settles O16: the model's lemma on the event. -/
theorem stbFallChangesNothing : Obligations.StbFallChangesNothing := fun _ _ => step_stbFall

/-- Settles O18: in key-read mode nothing is sampled. -/
theorem clkRiseIsIgnoredInKeyRead : Obligations.ClkRiseIsIgnoredInKeyRead := fun _ _ _ => step_clkRise_of_reading

/-! The bits of the accumulator after a shift-in. -/

theorem getLsbD_shiftIn {s : State} (d : Bool) {k : Nat} (hk : k < 8) :
    (shiftIn d s).currentByte.getLsbD k = (s.currentByte.getLsbD k || (decide (k = s.bitIndex.toNat) && d)) := by
  rw [shiftIn_currentByte, BitVec.getLsbD_or]
  congr 1
  by_cases hlt : k < s.bitIndex.toNat
  · rw [BitVec.getLsbD_shiftLeft]
    simp [hlt, Nat.ne_of_lt hlt]
  · have hzero : k - s.bitIndex.toNat = 0 ↔ k = s.bitIndex.toNat := by omega
    rw [BitVec.getLsbD_shiftLeft, BitVec.getLsbD_setWidth, BitVec.getLsbD_ofBool]
    simp [hzero, hlt, hk, Nat.lt_of_le_of_lt (Nat.sub_le _ _) hk]

/-- The host's level as the bit that is read (decision D12). -/
theorem bit_eq_decide (l : Level) : bit l = decide (l = .H) := by cases l <;> rfl

/-- Settles O17: the sampled bit fills a place that the invariants keep clear. -/
theorem clkRiseShiftsOneBitIn : Obligations.ClkRiseShiftsOneBitIn := by
  intro s dio rest hi he hr h7
  have hin : s.dioDir = .input := by
    cases hdir : s.dioDir with
    | input => rfl
    | output => exact absurd (hr.symm.trans (hi.dio.1 hdir)) (by decide)
  have hne : s.bitIndex ≠ 7 := by bv_omega
  have hclear : s.currentByte.getLsbD s.bitIndex.toNat = false := Nat.testBit_lt_two_pow hi.partialByte
  refine ⟨_, step_shifting he hr hin hne, ?sampled, fun k hk => ?others⟩
  case sampled =>
    change (shiftIn (bit dio) s).currentByte.getLsbD _ = _
    rw [getLsbD_shiftIn _ (Nat.lt_succ_of_lt h7), hclear, bit_eq_decide]
    simp
  case others =>
    change (shiftIn (bit dio) s).currentByte.getLsbD k = _
    by_cases hk8 : k < 8
    · rw [getLsbD_shiftIn _ hk8, decide_eq_false hk, Bool.false_and, Bool.or_false]
    · rw [BitVec.getLsbD_of_ge _ _ (Nat.le_of_not_lt hk8), BitVec.getLsbD_of_ge _ _ (Nat.le_of_not_lt hk8)]

/-! The byte of which `n` bits are in, and how it grows. -/

/-- The accumulator when the `n` lowest bits of `b` have been received. -/
def receivedBits (b : Byte) (n : Nat) : Byte := b &&& BitVec.ofNat 8 (2 ^ n - 1)

theorem getLsbD_receivedBits (b : Byte) (n : Nat) {k : Nat} (hk : k < 8) :
    (receivedBits b n).getLsbD k = (b.getLsbD k && decide (k < n)) := by
  rw [receivedBits, BitVec.getLsbD_and, BitVec.getLsbD_ofNat, Nat.testBit_two_pow_sub_one]
  simp [hk]

theorem receivedBits_zero (b : Byte) : receivedBits b 0 = 0 := BitVec.and_zero

theorem receivedBits_eight (b : Byte) : receivedBits b 8 = b := BitVec.and_allOnes

/-- Shifting bit `n` of `b` in after the bits below it. -/
theorem shiftIn_receivedBits {s : State} {b : Byte} {n : Nat} (hbyte : s.currentByte = receivedBits b n)
    (hbits : s.bitIndex.toNat = n) :
    (shiftIn (b.getLsbD n) s).currentByte = receivedBits b (n + 1) := by
  refine BitVec.eq_of_getLsbD_eq fun k hk => ?_
  rw [getLsbD_shiftIn _ hk, hbyte, hbits, getLsbD_receivedBits _ _ hk, getLsbD_receivedBits _ _ hk]
  obtain hlt | rfl | hgt := Nat.lt_trichotomy k n
  · simp [hlt, Nat.lt_succ_of_lt hlt, Nat.ne_of_lt hlt]
  · simp
  · simp [Nat.not_lt_of_gt hgt, Nat.ne_of_gt hgt, Nat.not_lt.2 hgt]

/-- The same as a state: bit `n` of `b` and the count change, and nothing else. -/
theorem shiftIn_receivedBits_eq {s : State} {b : Byte} {n : Nat} (hn : n < 16)
    (hbyte : s.currentByte = receivedBits b n) (hbits : s.bitIndex = BitVec.ofNat 4 n) :
    shiftIn (b.getLsbD n) s =
      { s with currentByte := receivedBits b (n + 1), bitIndex := BitVec.ofNat 4 (n + 1) } := by
  have hcount : s.bitIndex.toNat = n := by rw [hbits, BitVec.toNat_ofNat, Nat.mod_eq_of_lt hn]
  rw [← shiftIn_receivedBits hbyte hcount, BitVec.ofNat_add, ← hbits]
  rfl

/-! The eighth bit of a byte. -/

/-- With seven bits in, a sampled H adds bit 7. -/
theorem shiftIn_seventh {s : State} (dio : Level) (h7 : s.bitIndex = 7) :
    (shiftIn (bit dio) s).currentByte = s.currentByte ||| if dio = .H then 0x80#8 else 0#8 := by
  rw [shiftIn_currentByte, h7]
  cases dio <;> rfl

/-- Settles O13: the completed byte is the accumulator with the sampled bit at its top. -/
theorem stepRunsTheDecodedInstruction : Obligations.StepRunsTheDecodedInstruction := by
  intro s dio rest i he hr hin h7 hdecode _
  have hi : decodeByte s.commandMode (s.currentByte ||| if dio = .H then 0x80#8 else 0#8) = i := by
    simpa [decode] using hdecode
  rw [step_completing_exec he hr hin h7, shiftIn_seventh dio h7, hi]

/-- Settles O14: the seven bits placed and the one that arrives make the word's byte. -/
theorem fetchWordRunsItsInstruction : Obligations.FetchWordRunsItsInstruction := by
  intro s w
  refine ⟨?runs, Encoding.decodeTableWord_byte w⟩
  case runs =>
    rw [← Encoding.ofNat_mod_byte w]
    set b : Byte := BitVec.ofNat 8 (w % 2 ^ 8)
    have hbyte : (shiftIn (b.getLsbD 7) (s.withFetchWord 8 w)).currentByte = b :=
      (shiftIn_receivedBits (n := 7) rfl rfl).trans (receivedBits_eight b)
    rw [step_completing_exec (s := s.withFetchWord 8 w) rfl rfl rfl rfl, bit_lvl, hbyte]
    rfl

/-! One pulse of CLK outside key-read mode: the falling edge does nothing (R85). -/

theorem runSteps_one_eq_step (s : State) : runSteps 1 s = step s := by
  obtain ⟨t, h⟩ := Exceptions.step_completes s
  rw [runSteps_one h, h]

theorem runSteps_pulse {s : State} {d : Level} {rest : List Event} (he : s.events = .clkFall :: .clkRise d :: rest)
    (hr : s.readingKeys = false) : runSteps 2 s = step { s with events := .clkRise d :: rest } := by
  rw [runSteps_succ 1 (step_clkFall_of_not_reading he hr), runSteps_one_eq_step]

theorem runSteps_pulse_shifting {s : State} {d : Level} {rest : List Event}
    (he : s.events = .clkFall :: .clkRise d :: rest) (hr : s.readingKeys = false) (hin : s.dioDir = .input)
    (h7 : s.bitIndex ≠ 7) : runSteps 2 s = .next (shiftIn (bit d) { s with events := rest }) := by
  rw [runSteps_pulse he hr]
  exact step_shifting (s := { s with events := .clkRise d :: rest }) rfl hr hin h7

theorem runSteps_pulse_completing {s : State} {d : Level} {rest : List Event}
    (he : s.events = .clkFall :: .clkRise d :: rest) (hr : s.readingKeys = false) (hin : s.dioDir = .input)
    (h7 : s.bitIndex = 7) :
    runSteps 2 s = exec (decodeByte s.commandMode (shiftIn (bit d) s).currentByte)
      { s with events := rest, currentByte := 0, bitIndex := 0 } := by
  rw [runSteps_pulse he hr]
  exact step_completing_exec (s := { s with events := .clkRise d :: rest }) rfl hr hin h7

/-! The sixteen events of `W b`. -/

/-- The pulses of `W b` from the `n`-th on. -/
theorem wEvents_drop (b : Byte) {n : Nat} (hn : n < 8) :
    (wEvents b).drop (2 * n) =
      .clkFall :: .clkRise (lvl (b.getLsbD n)) :: (wEvents b).drop (2 * (n + 1)) := by
  interval_cases n <;> rfl

/-- The link in the middle of `W b`: `n` of its bits received, the pulses of the others and `rest` still to come. -/
def afterPulses (s : State) (b : Byte) (rest : List Event) (n : Nat) : State :=
  { s with
    events := (wEvents b).drop (2 * n) ++ rest
    currentByte := receivedBits b n
    bitIndex := BitVec.ofNat 4 n }

theorem afterPulses_events (s : State) (b : Byte) (rest : List Event) {n : Nat} (hn : n < 8) :
    (afterPulses s b rest n).events =
      .clkFall :: .clkRise (lvl (b.getLsbD n)) :: ((wEvents b).drop (2 * (n + 1)) ++ rest) :=
  congrArg (· ++ rest) (wEvents_drop b hn)

/-- One pulse before the eighth receives one bit. -/
theorem runSteps_afterPulses {s : State} (hr : s.readingKeys = false) (hin : s.dioDir = .input) (b : Byte)
    (rest : List Event) {n : Nat} (hn : n < 7) :
    runSteps 2 (afterPulses s b rest n) = .next (afterPulses s b rest (n + 1)) := by
  have h7 : BitVec.ofNat 4 n ≠ 7 := by bv_omega
  rw [runSteps_pulse_shifting (afterPulses_events s b rest (by omega)) hr hin h7, bit_lvl]
  exact congrArg Host.Outcome.next (shiftIn_receivedBits_eq (by omega) rfl rfl)

/-- The pulses before the eighth, from a clear accumulator. -/
theorem runSteps_pulses {s : State} (hr : s.readingKeys = false) (hin : s.dioDir = .input) (b : Byte)
    (rest : List Event) {n : Nat} (hn : n ≤ 7) :
    runSteps (2 * n) (afterPulses s b rest 0) = .next (afterPulses s b rest n) := by
  induction n with
  | zero => rfl
  | succ n ih => rw [Nat.mul_succ, runSteps_add _ _ (ih (by omega)), runSteps_afterPulses hr hin b rest hn]

/-- At a byte boundary the accumulator is clear. -/
theorem clear_eq_of_atByteBoundary {s : State} (h : AtByteBoundary s) :
    { s with currentByte := 0, bitIndex := 0 } = s := by
  rw [← h.emptyByte, ← h.noBits]

/-- At a byte boundary no bit of `W b` is in. -/
theorem afterPulses_zero {s : State} (h : AtByteBoundary s) {b : Byte} {rest : List Event}
    (he : s.events = wEvents b ++ rest) : afterPulses s b rest 0 = s :=
  calc afterPulses s b rest 0
      = { s with currentByte := 0, bitIndex := 0 } := by
        rw [afterPulses, receivedBits_zero, Nat.mul_zero, List.drop_zero, ← he]
        rfl
    _ = s := clear_eq_of_atByteBoundary h

/-- The eighth pulse dispatches the byte. -/
theorem runSteps_lastPulse {s : State} (h : AtByteBoundary s) (b : Byte) (rest : List Event) :
    runSteps 2 (afterPulses s b rest 7) = dispatch b { s with events := rest } := by
  have hbyte : (shiftIn (b.getLsbD 7) (afterPulses s b rest 7)).currentByte = b :=
    (shiftIn_receivedBits rfl rfl).trans (receivedBits_eight b)
  have hclear : { afterPulses s b rest 7 with events := rest, currentByte := 0, bitIndex := 0 } =
      { s with events := rest } :=
    congrArg (fun t => { t with events := rest }) (clear_eq_of_atByteBoundary h)
  rw [runSteps_pulse_completing (afterPulses_events s b rest (by decide)) h.receiving h.input rfl, bit_lvl, hbyte]
  exact congrArg (exec (decodeByte s.commandMode b)) hclear

/-- Settles O22: seven pulses fill the accumulator, and the eighth completes the byte. -/
theorem serialByteIsDispatchedWhole : Obligations.SerialByteIsDispatchedWhole := by
  intro s b rest h he
  have hseven : runSteps (2 * 7) s = .next (afterPulses s b rest 7) := by
    rw [← afterPulses_zero h he]
    exact runSteps_pulses h.receiving h.input b rest (Nat.le_refl 7)
  exact (runSteps_add (2 * 7) 2 hseven).trans (runSteps_lastPulse h b rest)

/-- A frame reset leaves a byte boundary, whatever the state was (R75). -/
theorem atByteBoundary_stbRise (s : State) : AtByteBoundary (stbRise s) := ⟨rfl, rfl, rfl, rfl⟩

/-- Settles O23: the frame reset leaves a byte boundary in command mode. -/
theorem firstByteAfterStbRiseIsACommand : Obligations.FirstByteAfterStbRiseIsACommand := by
  intro s b rest he
  calc runSteps 17 s
      = runSteps 16 (stbRise { s with events := wEvents b ++ rest }) := runSteps_succ 16 (step_stbRise he)
    _ = dispatch b (stbRise { s with events := rest }) :=
        serialByteIsDispatchedWhole _ b rest (atByteBoundary_stbRise _) rfl
    _ = exec (decodeByte true b) (stbRise { s with events := rest }) := rfl

end Sys2Proof.ShiftIn
end

section
/-! PROOFS. Command bytes and runs of data bytes (spec/41_commands.md): the bits a command ignores, the entry into
key-read mode, and the fill of the display RAM with auto-increment (spec/20_memory.md section 3). -/

namespace Sys2Proof.Commands

open Machine

/-! Ignored bits (R68, decisions D6 and D7). -/

theorem topBits_cases (b : Byte) : topBits b = 0#2 ∨ topBits b = 1#2 ∨ topBits b = 2#2 ∨ topBits b = 3#2 := by
  generalize topBits b = t
  revert t
  decide

/-- Settles O4: per command, the instruction's meaning looks at the fields that the two bytes share. -/
theorem ignoredBitsHaveNoEffect : Obligations.IgnoredBitsHaveNoEffect := by
  intro s b c hc htop hdata hdisplay haddress
  obtain h | h | h | h := topBits_cases b
  · rw [dispatch_displayModeSet hc h, dispatch_displayModeSet hc (htop ▸ h)]
    rfl
  · obtain ⟨hr, hf⟩ := hdata h
    rw [dispatch_dataSet hc h, dispatch_dataSet hc (htop ▸ h), hr, hf]
    rfl
  · rw [dispatch_displayControl hc h, dispatch_displayControl hc (htop ▸ h), hdisplay h]
    rfl
  · rw [dispatch_addressSet hc h, dispatch_addressSet hc (htop ▸ h), haddress h]
    rfl

/-! Data Command Setting (R91). -/

theorem exec_dataSet_noRead (x : BitVec 3) (f x0 : Bool) (s : State) :
    exec (.dataSet x f false x0) s = .next { s with autoInc := !f, commandMode := false } :=
  exec_eq _ _

theorem exec_dataSet_read (x : BitVec 3) (f x0 : Bool) (s : State) :
    exec (.dataSet x f true x0) s = .next { enterKeyRead s with autoInc := !f, commandMode := false } :=
  exec_eq _ _

/-- Settles O6: the command with bit R clear and set. -/
theorem dataSetSetsAddressingAndEntersKeyRead : Obligations.DataSetSetsAddressingAndEntersKeyRead := fun x f x0 s =>
  ⟨exec_dataSet_noRead x f x0 s, exec_dataSet_read x f x0 s⟩

/-- A byte `01xxxx1x` in command mode enters key-read mode (conflict C4). -/
theorem dispatch_keyReadCommand {b : Byte} {s : State} (hc : s.commandMode = true) (htop : topBits b = 1#2)
    (hread : b.getLsbD 1 = true) :
    dispatch b s = .next { enterKeyRead s with autoInc := !b.getLsbD 2, commandMode := false } := by
  rw [dispatch_dataSet hc htop, hread, exec_dataSet_read]

/-- Settles O7: the state after the command, in which R79 ignores every CLK_RISE. -/
theorem everyReadKeysByteEntersKeyRead : Obligations.EveryReadKeysByteEntersKeyRead := fun _ _ hc htop hread =>
  ⟨_, dispatch_keyReadCommand hc htop hread, rfl, rfl, rfl, rfl, rfl, rfl, rfl, rfl, rfl, rfl, rfl,
    fun _ _ => ShiftIn.step_clkRise_of_reading rfl rfl⟩

/-! A run of data bytes with auto-increment (R45, R97, R98). -/

/-- One data byte off the wire, below 14 and with auto-increment: it is stored, and the address moves on. -/
theorem runSteps_dataByte {s : State} {d : Byte} {rest : List Event} (hb : AtByteBoundary s)
    (hd : s.commandMode = false) (hinc : s.autoInc = true) (ha : s.address.toNat < 14)
    (he : s.events = wEvents d ++ rest) :
    runSteps 16 s = .next { s with
      events := rest
      ram := s.ram.write s.address.toNat d
      address := BitVec.ofNat 4 ((s.address.toNat + 1) % 14) } := by
  rw [ShiftIn.serialByteIsDispatchedWhole s d rest hb he, dispatch_dataWrite d (s := { s with events := rest }) hd,
    exec_dataWrite_of_lt d (s := { s with events := rest }) ha]
  simp only [hinc, if_true]

/-- An address modulo 14 fits its four bits. -/
theorem toNat_ofNat_mod (n : Nat) : (BitVec.ofNat 4 (n % 14)).toNat = n % 14 := by
  rw [BitVec.toNat_ofNat]
  omega

/-- Settles O24: by induction on the bytes. The first is not overwritten, since 14 bytes in a row have 14 different
addresses. -/
theorem dataBytesFillAscendingAddresses : Obligations.DataBytesFillAscendingAddresses := by
  intro s bs rest hb hd hinc ha hlen he
  induction bs generalizing s with
  | nil =>
    have haddress : BitVec.ofNat 4 ((s.address.toNat + 0) % 14) = s.address :=
      BitVec.eq_of_toNat_eq (by rw [toNat_ofNat_mod]; omega)
    refine ⟨s.ram, ?_, nofun, fun _ _ => rfl⟩
    obtain rfl : s.events = rest := he
    rw [List.length_nil, haddress]
    rfl
  | cons b bs ih =>
    rw [List.flatMap_cons, List.append_assoc] at he
    rw [List.length_cons] at hlen
    set n := s.address.toNat
    obtain ⟨m, hrun, hstored, hkept⟩ := ih
      { s with
        events := bs.flatMap wEvents ++ rest
        ram := s.ram.write n b
        address := BitVec.ofNat 4 ((n + 1) % 14) }
      ⟨hb.receiving, hb.input, hb.emptyByte, hb.noBits⟩ hd hinc (by rw [toNat_ofNat_mod]; omega) (by omega) rfl
    simp only [toNat_ofNat_mod] at hrun hstored hkept
    refine ⟨m, ?run, fun k hk => ?stored, fun a hfree => ?kept⟩
    case run =>
      have hnext : ((n + 1) % 14 + bs.length) % 14 = (n + (bs.length + 1)) % 14 := by omega
      rw [List.length_cons, show 16 * (bs.length + 1) = 16 + 16 * bs.length by omega,
        runSteps_add 16 _ (runSteps_dataByte hb hd hinc ha he), hrun, hnext]
    case stored =>
      cases k with
      | zero =>
        have hfirst : (n + 0) % 14 = n := by omega
        have hfree : ∀ k, k < bs.length → n ≠ ((n + 1) % 14 + k) % 14 := by omega
        rw [hfirst, hkept n hfree, Memory.read_write_self]
        rfl
      | succ k =>
        have hnext : (n + (k + 1)) % 14 = ((n + 1) % 14 + k) % 14 := by omega
        rw [hnext, hstored k (Nat.lt_of_succ_lt_succ hk)]
        rfl
    case kept =>
      have hne : a ≠ n := by
        have := hfree 0 (Nat.succ_pos _)
        omega
      have hfree' : ∀ k, k < bs.length → a ≠ ((n + 1) % 14 + k) % 14 := fun k hk => by
        have := hfree (k + 1) (Nat.succ_lt_succ hk)
        omega
      rw [hkept a hfree', Memory.read_write_of_ne _ _ hne]

end Sys2Proof.Commands
end

section
/-! PROOFS. The key report on the wire (spec/40_serial_link.md, section 3): what a run of shift-out edges leaves, what
may come between the edges, and the transaction KEYREAD (spec/30_encoding.md R74). -/

namespace Sys2Proof.KeyReport

open Machine SerialLink

/-! A run of shift-out edges. -/

/-- Pending events do not matter to a shift-out edge. -/
theorem shiftOut_events (s : State) (rest : List Event) :
    shiftOut { s with events := rest } = { shiftOut s with events := rest } := by
  by_cases h : s.keyBitCounter.toNat / 8 < 3
  · rw [shiftOut_of_lt h, shiftOut_of_lt (s := { s with events := rest }) h]
  · rw [shiftOut_of_exhausted h, shiftOut_of_exhausted (s := { s with events := rest }) h]

theorem iterate_shiftOut_events (n : Nat) (s : State) (rest : List Event) :
    shiftOut^[n] { s with events := rest } = { shiftOut^[n] s with events := rest } := by
  induction n generalizing s with
  | zero => rfl
  | succ n ih => rw [Function.iterate_succ_apply, shiftOut_events, ih, Function.iterate_succ_apply]

theorem shiftOut_readingKeys (s : State) : (shiftOut s).readingKeys = s.readingKeys := by
  obtain ⟨_, _, e⟩ := shiftOut_frame s
  rw [e]

/-- A step on CLK_FALL in key-read mode, with the events apart from the edge. -/
theorem step_edge {s : State} {rest : List Event} (hr : s.readingKeys = true) (he : s.events = .clkFall :: rest) :
    step s = .next { shiftOut s with events := rest } := by
  rw [step_clkFall_of_reading he hr, shiftOut_events]

/-- Edges alone: each is one shift-out. -/
theorem runSteps_edges (n : Nat) {s : State} {rest : List Event} (hr : s.readingKeys = true)
    (he : s.events = List.replicate n .clkFall ++ rest) :
    runSteps n s = .next { shiftOut^[n] s with events := rest } := by
  induction n generalizing s with
  | zero =>
    obtain rfl : s.events = rest := he
    rfl
  | succ n ih =>
    calc runSteps (n + 1) s
        = runSteps n { shiftOut s with events := List.replicate n .clkFall ++ rest } :=
          runSteps_succ n (step_edge hr he)
      _ = .next { shiftOut^[n] { shiftOut s with events := List.replicate n .clkFall ++ rest } with
            events := rest } := ih ((shiftOut_readingKeys s).trans hr) rfl
      _ = .next { shiftOut^[n + 1] s with events := rest } := by
          rw [iterate_shiftOut_events]
          rfl

/-- One pulse of `R` is one shift-out: its CLK_RISE does nothing (R79). -/
theorem runSteps_readPulse {s : State} {host : Level} {rest : List Event} (hr : s.readingKeys = true)
    (he : s.events = .clkFall :: .clkRise host :: rest) :
    runSteps 2 s = .next { shiftOut s with events := rest } := by
  rw [runSteps_succ 1 (step_edge hr he)]
  exact runSteps_one (ShiftIn.step_clkRise_of_reading (s := { shiftOut s with events := .clkRise host :: rest }) rfl
    ((shiftOut_readingKeys s).trans hr))

/-- The pulses of `R n`. -/
theorem runSteps_rEvents (host : Level) (n : Nat) {s : State} {rest : List Event} (hr : s.readingKeys = true)
    (he : s.events = rEvents host n ++ rest) :
    runSteps (2 * n) s = .next { shiftOut^[n] s with events := rest } := by
  induction n generalizing s with
  | zero =>
    obtain rfl : s.events = rest := he
    rfl
  | succ n ih =>
    calc runSteps (2 * (n + 1)) s
        = runSteps (2 * n) { shiftOut s with events := rEvents host n ++ rest } := by
          rw [Nat.mul_succ, Nat.add_comm]
          exact runSteps_add 2 _ (runSteps_readPulse hr he)
      _ = .next { shiftOut^[n] { shiftOut s with events := rEvents host n ++ rest } with events := rest } :=
          ih ((shiftOut_readingKeys s).trans hr) rfl
      _ = .next { shiftOut^[n + 1] s with events := rest } := by
          rw [iterate_shiftOut_events]
          rfl

/-! What the edges put on DIO (R44, R84). -/

/-- Shift-out edge `n`, with the counter written as a number. -/
theorem shiftOut_of_counter {s : State} {n : Nat} (hn : n < 24) (hc : s.keyBitCounter.toNat = n) :
    shiftOut s = { s with
      dioOut := lvl ((s.keyData[n / 8]'(by omega)).getLsbD (n % 8))
      keyBitCounter := BitVec.ofNat 5 (n + 1) } := by
  subst hc
  rw [shiftOut_of_lt (by omega), BitVec.ofNat_add, BitVec.ofNat_toNat, BitVec.setWidth_eq]
  rfl

/-- After edge `n` DIO shows bit `n` of the report, the least significant bit of each byte first. -/
theorem iterate_shiftOut_of_lt {s : State} {n : Nat} (hn : n < 24) (h0 : s.keyBitCounter = 0) :
    shiftOut^[n + 1] s = { s with
      keyBitCounter := BitVec.ofNat 5 (n + 1)
      dioOut := lvl ((s.keyData[n / 8]'(by omega)).getLsbD (n % 8)) } := by
  induction n with
  | zero => exact shiftOut_of_counter (n := 0) hn (by rw [h0]; rfl)
  | succ n ih =>
    rw [Function.iterate_succ_apply', ih (by omega), shiftOut_of_counter hn ?counted]
    case counted =>
      rw [BitVec.toNat_ofNat, Nat.mod_eq_of_lt (by omega)]

/-- After 24 edges DIO holds (R86). -/
theorem iterate_shiftOut_of_ge {s : State} {n : Nat} (hn : 24 ≤ n) (h0 : s.keyBitCounter = 0) :
    shiftOut^[n] s = { s with keyBitCounter := 24, dioOut := lvl (s.keyData[2].getLsbD 7) } := by
  have hlast : shiftOut^[24] s = { s with keyBitCounter := 24, dioOut := lvl (s.keyData[2].getLsbD 7) } :=
    iterate_shiftOut_of_lt (n := 23) (by decide) h0
  obtain ⟨k, rfl⟩ := Nat.exists_eq_add_of_le' hn
  rw [Function.iterate_add_apply, hlast]
  exact Function.iterate_fixed (shiftOut_of_exhausted (exhausted_of_eq rfl)) k

/-- Settles O21: bare edges and pulses are the same number of shift-outs. -/
theorem keyReportStreamsLeastSignificantBitFirst : Obligations.KeyReportStreamsLeastSignificantBitFirst := by
  intro s n es rest hr h0 hes he
  have hrun : runSteps es.length s = .next { shiftOut^[n + 1] s with events := rest } := by
    obtain ⟨host, rfl⟩ | rfl := hes
    · rw [rEvents_length]
      exact runSteps_rEvents host (n + 1) hr he
    · rw [List.length_replicate]
      exact runSteps_edges (n + 1) hr he
  refine ⟨fun hn => ?streams, fun hn => ?holds⟩
  case streams => rw [hrun, iterate_shiftOut_of_lt hn h0, lvl_eq_ite]
  case holds => rw [hrun, iterate_shiftOut_of_ge (Nat.le_succ_of_le hn) h0, lvl_eq_ite]

/-! What comes between the edges. -/

/-- The report is read live: an edge drives a bit of the report as it stands then (R84, R143). -/
theorem dioOut_after_edge {s t : State} {rest : List Event} {n : Nat} (hr : s.readingKeys = true)
    (he : s.events = .clkFall :: rest) (h : step s = .next t) (hn : n < 24) (hc : s.keyBitCounter.toNat = n) :
    t.dioOut = if (s.keyData[n / 8]'(by omega)).getLsbD (n % 8) then .H else .L := by
  obtain rfl := Host.Outcome.next.inj ((step_edge hr he).symm.trans h)
  rw [shiftOut_of_counter hn hc, lvl_eq_ite]

/-- Settles O34: the tick leaves the shift-out's fields alone, and the edge then reads the report that it made. -/
theorem scanBetweenEdgesMixesTheReport : Obligations.ScanBetweenEdgesMixesTheReport := by
  intro s t k1 rest hr _ he h
  obtain ⟨-, -, -, -, -, hreading, -, -, hcounter, -, hout, -⟩ := Writers.ticksLeaveTheSerialSide s t k1 _ he h
  have hevents : t.events = .clkFall :: rest := by rw [Writers.step_events h, he, List.tail_cons]
  have hedge := step_edge (hreading.trans hr) hevents
  refine ⟨hcounter, hout, hreading.trans hr, fun hlt => ⟨_, (runSteps_succ 1 h).trans (runSteps_one hedge), ?_⟩⟩
  exact dioOut_after_edge (hreading.trans hr) hevents hedge (by omega) (by rw [hcounter])

/-- From `s` to `t` in key-read mode, over events with `n` shift-out edges and no STB_RISE: the mode and the direction
of DIO stay, the edges are counted up to 24, and without one DIO keeps its level. -/
structure ReadsOn (n : Nat) (s t : State) : Prop where
  reading : t.readingKeys = true
  direction : t.dioDir = s.dioDir
  counter : t.keyBitCounter.toNat = max s.keyBitCounter.toNat (min (s.keyBitCounter.toNat + n) 24)
  level : n = 0 → t.dioOut = s.dioOut

/-- What writes none of these fields reads on. -/
theorem ReadsOn.of_eq {s t : State} (hr : t.readingKeys = true) (hdir : t.dioDir = s.dioDir)
    (hcounter : t.keyBitCounter = s.keyBitCounter) (hout : t.dioOut = s.dioOut) : ReadsOn 0 s t :=
  ⟨hr, hdir, by rw [hcounter]; omega, fun _ => hout⟩

theorem ReadsOn.trans {m n : Nat} {s u t : State} (hsu : ReadsOn m s u) (hut : ReadsOn n u t) :
    ReadsOn (m + n) s t where
  reading := hut.reading
  direction := hut.direction.trans hsu.direction
  counter := by
    have h := hut.counter
    rw [hsu.counter] at h
    omega
  level h := (hut.level (by omega)).trans (hsu.level (by omega))

/-- A shift-out edge is counted below 24. -/
theorem readsOn_shiftOut {s : State} (hr : s.readingKeys = true) : ReadsOn 1 s (shiftOut s) := by
  obtain ⟨h, e⟩ | ⟨h, e⟩ := shiftOut_cases s
  · rw [e]
    exact ⟨hr, rfl, by change (s.keyBitCounter + 1).toNat = _; bv_omega, nofun⟩
  · rw [e]
    exact ⟨hr, rfl, by omega, fun _ => rfl⟩

/-- A step in key-read mode that takes no STB_RISE. -/
theorem readsOn_step {s t : State} {e : Event} {rest : List Event} (hr : s.readingKeys = true)
    (he : s.events = e :: rest) (hstb : e ≠ .stbRise) (h : step s = .next t) :
    ReadsOn (if e = .clkFall then 1 else 0) s t := by
  cases e with
  | stbRise => exact absurd rfl hstb
  | stbFall =>
    obtain rfl := Host.Outcome.next.inj ((step_stbFall he).symm.trans h)
    exact .of_eq hr rfl rfl rfl
  | clkRise dio =>
    obtain rfl := Host.Outcome.next.inj ((ShiftIn.step_clkRise_of_reading he hr).symm.trans h)
    exact .of_eq hr rfl rfl rfl
  | clkFall =>
    obtain rfl := Host.Outcome.next.inj ((step_edge hr he).symm.trans h)
    obtain ⟨hreading, hdir, hcounter, hlevel⟩ := readsOn_shiftOut hr
    exact ⟨hreading, hdir, hcounter, hlevel⟩
  | tick k1 =>
    obtain ⟨-, -, -, -, -, hreading, -, -, hcounter, hdir, hout, -⟩ := Writers.ticksLeaveTheSerialSide s t k1 rest he h
    exact .of_eq (hreading.trans hr) hdir hcounter hout

/-- A run in key-read mode over events without STB_RISE. -/
theorem runSteps_readsOn {es : List Event} (hstb : .stbRise ∉ es) {s : State} {rest : List Event}
    (hr : s.readingKeys = true) (he : s.events = es ++ rest) :
    ∃ t, runSteps es.length s = .next t ∧ t.events = rest ∧ ReadsOn (es.count .clkFall) s t := by
  induction es generalizing s with
  | nil => exact ⟨s, rfl, he, .of_eq hr rfl rfl rfl⟩
  | cons e es ih =>
    obtain ⟨hne, hstb⟩ := not_or.1 (mt List.mem_cons.2 hstb)
    obtain ⟨u, hu⟩ := Exceptions.step_completes s
    have hsu := readsOn_step hr he (Ne.symm hne) hu
    have hevents : u.events = es ++ rest := by rw [Writers.step_events hu, he]; rfl
    obtain ⟨t, hrun, hrest, hut⟩ := ih hstb hsu.reading hevents
    refine ⟨t, (runSteps_succ _ hu).trans hrun, hrest, ?_⟩
    simpa [List.count_cons, Nat.add_comm] using hsu.trans hut

/-- While DIO is an output the outside sees the level the block drives (R27). -/
theorem pins_dio_of_output {s : State} (h : s.dioDir = .output) : s.pins.dio = some s.dioOut := by
  simp only [State.pins, h]

/-- Settles O48: the counter at the edge is the number of edges before it, up to 24, and what comes after the edge
leaves the level that it drove. -/
theorem hostSamplesTheReportAsItStood : Obligations.HostSamplesTheReportAsItStood := by
  refine ⟨fun s pre mid rest hr hout h0 hpre hmid hmidFall he => ?sampled, fun s mid rest hr hmid hmidFall he => ?held⟩
  case sampled =>
    obtain ⟨u, hrunU, heu, hsu⟩ := runSteps_readsOn hpre hr he
    have hv := step_edge hsu.reading heu
    have huv := readsOn_step hsu.reading heu (by decide) hv
    obtain ⟨t, hrunT, -, hvt⟩ := runSteps_readsOn hmid huv.reading rfl
    have hcounter : u.keyBitCounter.toNat = min (pre.count .clkFall) 24 := by
      rw [hsu.counter, h0]
      simp
    have hheld := hvt.level (List.count_eq_zero.2 hmidFall)
    have hrun : runSteps (pre.length + 1 + mid.length) s = .next t := by
      rw [Nat.add_assoc, runSteps_add _ _ hrunU, Nat.add_comm 1, runSteps_succ _ hv, hrunT]
    refine ⟨u, t, hrunU, hrun, fun hlt => ?bit, fun hge => ?exhausted⟩
    case bit =>
      have houtT : t.dioDir = .output := by rw [hvt.direction, huv.direction, hsu.direction, hout]
      rw [pins_dio_of_output houtT, hheld, dioOut_after_edge hsu.reading heu hv hlt (by omega)]
    case exhausted =>
      have hex : ¬ u.keyBitCounter.toNat / 8 < 3 := by omega
      refine pins_dio_congr (hvt.direction.trans huv.direction) (hheld.trans ?_)
      rw [shiftOut_of_exhausted hex]
  case held =>
    obtain ⟨t, hrun, -, hst⟩ := runSteps_readsOn hmid hr he
    exact ⟨t, hrun, pins_dio_congr hst.direction (hst.level (List.count_eq_zero.2 hmidFall))⟩

/-! The transaction KEYREAD (R74). -/

/-- The state after the STB_FALL and the byte 0x42 of KEYREAD: key-read mode, with `R 24` and the STB_RISE to come. -/
def keyReadBegun (s : State) (host : Level) (rest : List Event) : State :=
  { enterKeyRead s with
    autoInc := true
    commandMode := false
    events := rEvents host 24 ++ .stbRise :: rest }

theorem runSteps_keyReadBegun {s : State} {host : Level} {rest : List Event} (hb : AtByteBoundary s)
    (hc : s.commandMode = true) (he : s.events = keyReadEvents host ++ rest) :
    runSteps 17 s = .next (keyReadBegun s host rest) := by
  have he' : s.events = .stbFall :: (wEvents 0x42#8 ++ (rEvents host 24 ++ .stbRise :: rest)) := by
    rw [he, keyReadEvents]
    simp
  calc runSteps 17 s
      = runSteps 16 { s with events := wEvents 0x42#8 ++ (rEvents host 24 ++ .stbRise :: rest) } :=
        runSteps_succ 16 (step_stbFall he')
    _ = dispatch 0x42#8 { s with events := rEvents host 24 ++ .stbRise :: rest } :=
        ShiftIn.serialByteIsDispatchedWhole _ _ _ ⟨hb.receiving, hb.input, hb.emptyByte, hb.noBits⟩ rfl
    _ = .next (keyReadBegun s host rest) := Commands.dispatch_keyReadCommand hc (by decide) (by decide)

/-- Settles O49: 0x42 enters key-read mode, `R` streams the report, and the STB_RISE ends the read. -/
theorem keyreadTransactionReturnsTheReport : Obligations.KeyreadTransactionReturnsTheReport := by
  intro s host rest hb hc he
  have hbegun := runSteps_keyReadBegun hb hc he
  refine ⟨fun p hp => ?sample, ?ended⟩
  case sample =>
    have hpulses : (keyReadBegun s host rest).events =
        rEvents host (p + 1) ++ (rEvents host (23 - p) ++ .stbRise :: rest) := by
      rw [← List.append_assoc, ← rEvents_add, show p + 1 + (23 - p) = 24 by omega]
      rfl
    refine ⟨_, (runSteps_add 17 _ hbegun).trans (runSteps_rEvents host (p + 1) rfl hpulses), ?_⟩
    rw [iterate_shiftOut_of_lt hp rfl, lvl_eq_ite]
    rfl
  case ended =>
    have hstream := runSteps_rEvents host 24 (s := keyReadBegun s host rest) rfl rfl
    rw [iterate_shiftOut_of_ge (Nat.le_refl 24) rfl] at hstream
    rw [runSteps_add 17 49 hbegun, runSteps_add 48 1 hstream, runSteps_one (step_stbRise rfl)]
    simp only [stbRise_spec, keyReadBegun, lvl_eq_ite, hb.emptyByte, hb.noBits]
    rfl

end Sys2Proof.KeyReport
end

section
/-! PROOFS. The multiplex engine, its pins (spec/42_multiplex.md, sections 2 to 4): where a scan leaves them, what an
enabled display phase shows, the round of eight ticks, and switching the display off. -/

namespace Sys2Proof.Multiplex

open Machine

/-- Settles O27: the report is the one of the tick's samples. -/
theorem scanPhaseLeavesThePins : Obligations.ScanPhaseLeavesThePins := fun _ k1 _ he hp =>
  ⟨scanReport k1, step_tick_scan_spec he hp⟩

/-! The segment pattern (R108). -/

theorem evenAddress_toNat (g : Fin 4) : (evenAddress g).toNat = 2 * g.val := by
  revert g
  decide

theorem oddAddress_toNat (g : Fin 4) : (oddAddress g).toNat = 2 * g.val + 1 := by
  revert g
  decide

/-- Pattern bits 4:0 are the even byte's bits 4:0. -/
theorem getLsbD_segmentPattern_of_lt (even odd : Byte) {i : Nat} (h : i < 5) :
    (segmentPattern even odd).getLsbD i = even.getLsbD i := by
  interval_cases i <;> simp [segmentPattern]

/-- Pattern bits 7:5 are the odd byte's bits 5:3. -/
theorem getLsbD_segmentPattern_of_ge (even odd : Byte) {i : Nat} (h5 : 5 ≤ i) (h8 : i < 8) :
    (segmentPattern even odd).getLsbD i = odd.getLsbD (i - 2) := by
  interval_cases i <;> simp [segmentPattern]

/-- Settles O30: the addresses and the bits of the pattern. -/
theorem patternTakesFiveEvenAndThreeOddBits : Obligations.PatternTakesFiveEvenAndThreeOddBits :=
  ⟨fun s g => ⟨congrArg s.ram.read (evenAddress_toNat g), congrArg s.ram.read (oddAddress_toNat g)⟩,
    fun even odd _ => ⟨getLsbD_segmentPattern_of_lt even odd, getLsbD_segmentPattern_of_ge even odd⟩⟩

/-- The pattern sees no other bits of its two bytes than those eight. -/
theorem segmentPattern_congr {even odd even' odd' : Byte} (heven : ∀ i, i < 5 → even'.getLsbD i = even.getLsbD i)
    (hodd : ∀ i, 3 ≤ i → i < 6 → odd'.getLsbD i = odd.getLsbD i) :
    segmentPattern even' odd' = segmentPattern even odd := by
  refine BitVec.eq_of_getLsbD_eq fun i hi => ?_
  by_cases h : i < 5
  · rw [getLsbD_segmentPattern_of_lt _ _ h, getLsbD_segmentPattern_of_lt _ _ h, heven i h]
  · rw [getLsbD_segmentPattern_of_ge _ _ (by omega) hi, getLsbD_segmentPattern_of_ge _ _ (by omega) hi,
      hodd _ (by omega) (by omega)]

/-! The display phase with the display on (R108 to R111). -/

/-- The pattern of a RAM for a grid. -/
def gridPattern (m : Memory) (g : Fin 4) : Byte := segmentPattern (m.read (2 * g.val)) (m.read (2 * g.val + 1))

/-- With the display on a display tick shows the active grid's pattern, lights the grid and moves to the next one. -/
theorem step_tick_display_on {s : State} {k1 : Vector Level 5} {rest : List Event}
    (he : s.events = .tick k1 :: rest) (hp : s.phase = .display) (hon : s.displayOn = true) :
    step s = .next { s with
      events := rest
      phase := .scan
      seg := segmentLevels (gridPattern s.ram s.activeGrid)
      grid := s.grid.set s.activeGrid .L
      activeGrid := s.activeGrid + 1 } := by
  rw [step_tick_display he hp, displayPhase_on (s := { s with events := rest }) hon]
  rfl

/-- SEG(i+1) shows bit `i` of the pattern (decision D4). -/
theorem segmentLevels_get (p : Byte) (i : Fin 8) : (segmentLevels p)[i] = if p.getLsbD i.val then .H else .L := by
  rw [← SerialLink.lvl_eq_ite]
  fin_cases i <;> rfl

theorem grid_set_self (grid : Vector Level 4) (g : Fin 4) (l : Level) : (grid.set g l)[g] = l :=
  Vector.getElem_set_self _

theorem grid_set_of_ne (grid : Vector Level 4) {g h : Fin 4} (l : Level) (hne : h ≠ g) :
    (grid.set g l)[h] = grid[h] :=
  Vector.getElem_set_ne _ _ fun e => hne (Fin.ext e.symm)

/-- Among grids that are all high, driving one low leaves that one low alone. -/
theorem low_iff_of_set_blank {grid : Vector Level 4} (hblank : ∀ g : Fin 4, grid[g] = .H) (a g : Fin 4) :
    (grid.set a .L)[g] = .L ↔ g = a := by
  by_cases h : g = a
  · rw [h, grid_set_self]
    simp
  · rw [grid_set_of_ne grid .L h, hblank g]
    simp [h]

/-- Settles O31: the pins of the tick, bit by bit of the pattern. -/
theorem displayPhaseShowsTheActiveGrid : Obligations.DisplayPhaseShowsTheActiveGrid := by
  intro s k1 rest he hp hon
  refine ⟨_, _, _, step_tick_display_on he hp hon, fun i hi => ?even, fun i hi => ?odd, grid_set_self _ _ _,
    fun h hne => grid_set_of_ne _ _ hne, Fin.val_add _ _⟩
  case even => rw [segmentLevels_get, gridPattern, getLsbD_segmentPattern_of_lt _ _ hi]
  case odd => rw [segmentLevels_get, gridPattern, getLsbD_segmentPattern_of_ge _ _ hi i.isLt]

/-- Settles O50: the tick reads the RAM through the pattern alone. -/
theorem enabledDisplayTickUsesEightBitsOfItsTwoBytes : Obligations.EnabledDisplayTickUsesEightBitsOfItsTwoBytes := by
  intro s k1 rest he hp hon
  refine ⟨_, step_tick_display_on he hp hon, segmentLevels_get _, fun m heven hodd => ?_⟩
  have hpattern : gridPattern m s.activeGrid = gridPattern s.ram s.activeGrid := segmentPattern_congr heven hodd
  rw [step_tick_display_on (s := { s with ram := m }) he hp hon, hpattern]

/-! The round of eight ticks (R112). -/

/-- With the display on and a scan next: where the round stands with `g` the next grid and `es` to come. -/
structure BeforeScan (s : State) (g : Fin 4) (es : List Event) : Prop where
  on : s.displayOn = true
  phase : s.phase = .scan
  active : s.activeGrid = g
  events : s.events = es

/-- One turn of the round: the scan blanks the grids, and the display phase then lights grid `g` alone. -/
theorem turn_of_beforeScan {s : State} {g : Fin 4} {k k' : Vector Level 5} {es : List Event}
    (hs : BeforeScan s g (.tick k :: .tick k' :: es)) :
    (∃ t, runSteps 1 s = .next t ∧ ∀ h : Fin 4, t.grid[h] = .H) ∧
    ∃ t, runSteps 2 s = .next t ∧ (∀ h : Fin 4, t.grid[h] = .L ↔ h = g) ∧ BeforeScan t (g + 1) es := by
  obtain ⟨hon, hp, rfl, he⟩ := hs
  have hscan := step_tick_scan_spec he hp
  refine ⟨⟨_, runSteps_one hscan, blankGrid_get⟩, ?_⟩
  rw [runSteps_succ 1 hscan]
  exact ⟨_, runSteps_one (step_tick_display_on rfl rfl hon), low_iff_of_set_blank blankGrid_get _, hon, rfl, rfl, rfl⟩

/-- The ticks of the round from turn `j` on. -/
theorem ticks_drop (k : Nat → Vector Level 5) {j : Nat} (hj : j < 4) :
    ((List.range 8).map fun i => Event.tick (k i)).drop (2 * j) =
      .tick (k (2 * j)) :: .tick (k (2 * j + 1)) ::
        ((List.range 8).map fun i => Event.tick (k i)).drop (2 * (j + 1)) := by
  interval_cases j <;> rfl

/-- After `j` turns of the round the next grid is `j` further on. -/
theorem runSteps_turns {s : State} {k : Nat → Vector Level 5} {rest : List Event} {j : Nat} (hj : j ≤ 4)
    (hs : BeforeScan s s.activeGrid ((List.range 8).map (fun i => .tick (k i)) ++ rest)) :
    ∃ t, runSteps (2 * j) s = .next t ∧
      BeforeScan t (s.activeGrid + Fin.ofNat 4 j)
        (((List.range 8).map fun i => Event.tick (k i)).drop (2 * j) ++ rest) := by
  induction j with
  | zero => exact ⟨s, rfl, hs.on, hs.phase, (add_zero _).symm, hs.events⟩
  | succ j ih =>
    obtain ⟨u, hrun, hu⟩ := ih (by omega)
    rw [ticks_drop k (by omega), List.cons_append, List.cons_append] at hu
    obtain ⟨-, t, hturn, -, ht⟩ := turn_of_beforeScan hu
    have hnext : s.activeGrid + Fin.ofNat 4 j + 1 = s.activeGrid + Fin.ofNat 4 (j + 1) := by
      apply Fin.ext
      simp only [Fin.val_add, Fin.val_ofNat, Fin.val_one]
      omega
    exact ⟨t, by rw [Nat.mul_succ, runSteps_add _ _ hrun, hturn], hnext ▸ ht⟩

/-- Settles O32: turn `j` starts where `j` turns end, and four turns are once around. -/
theorem eightTicksLightEachGridOnce : Obligations.EightTicksLightEachGridOnce := by
  intro s k rest hon hp he
  have hs : BeforeScan s s.activeGrid _ := ⟨hon, hp, rfl, he⟩
  refine ⟨fun j hj => ?turn, ?round⟩
  case turn =>
    obtain ⟨u, hrun, hu⟩ := runSteps_turns (Nat.le_of_lt hj) hs
    rw [ticks_drop k hj, List.cons_append, List.cons_append] at hu
    obtain ⟨⟨t, hscan, hblank⟩, v, hturn, hlit, -⟩ := turn_of_beforeScan hu
    refine ⟨⟨t, by rw [runSteps_add _ _ hrun, hscan], hblank⟩, v, by rw [runSteps_add _ _ hrun, hturn], fun g => ?_⟩
    rw [hlit g, Fin.ext_iff, Fin.val_add, Fin.val_ofNat, Nat.add_mod_mod]
  case round =>
    obtain ⟨t, hrun, -, hscan, hactive, hevents⟩ := runSteps_turns (Nat.le_refl 4) hs
    exact ⟨t, hrun, hactive.trans (add_zero _), hscan, hevents⟩

/-! Switching the display off (R148). -/

/-- Settles O33: the command writes the display enable only, the scan blanks the grids as ever, and the display phase
then does nothing. -/
theorem displayOffTakesEffectAtTheNextScan : Obligations.DisplayOffTakesEffectAtTheNextScan := by
  intro s b k k' rest hc hp he htop hoff
  have hbyte : dispatch b s = .next { s with displayOn := false } := by
    rw [Commands.dispatch_displayControl hc htop, Commands.exec_displayControl, hoff]
  have hscan := step_tick_scan_spec (s := { s with displayOn := false }) he hp
  have hdisplay := (runSteps_succ 1 hscan).trans (runSteps_one (step_tick_display_off rfl rfl rfl))
  exact ⟨_, _, _, hbyte, rfl, rfl, runSteps_one hscan, blankGrid_get, hdisplay, rfl, rfl, rfl⟩

end Sys2Proof.Multiplex
end

section
/-! PROOFS. The reset state (spec/70_reset_and_hazards.md, section 1) and the invariants of spec/10_state.md section 7:
they hold after reset, and each event keeps them. -/

namespace Sys2Proof.Invariants

open Machine

/-- Settles O47: the fields of the reset state are the table's, and DIO is an input. -/
theorem resetIsTheTable : Obligations.ResetIsTheTable :=
  ⟨Memory.read_nil, rfl, rfl, rfl, rfl, rfl, rfl, rfl, rfl, rfl, by decide, rfl, rfl, rfl, by decide, by decide⟩

/-- Settles O37: no bit is in, no key is read, the report is empty, every grid is high and the RAM lists nothing. -/
theorem invHoldsAtReset : Obligations.InvHoldsAtReset where
  dio := by decide
  bitIndex := by decide
  partialByte := by decide
  counter := by decide
  counterIdle _ := rfl
  keyRead := nofun
  report := by decide
  oneGrid := by decide
  blanked := nofun
  ram := reset_ram_wf

/-! Each event keeps the invariants. -/

section EachEvent

variable {s : State}

/-- No invariant speaks of the pending events. -/
theorem inv_events (hi : Inv s) (rest : List Event) : Inv { s with events := rest } := { hi with }

/-- An empty accumulator has no bit above those received. -/
theorem inv_emptyAccumulator (hi : Inv s) : Inv { s with currentByte := 0, bitIndex := 0 } :=
  { hi with
    bitIndex := by simp
    partialByte := by simp
    keyRead := fun hr => ⟨(hi.keyRead hr).1, rfl, rfl⟩ }

theorem inv_stbRise (hi : Inv s) : Inv (stbRise s) :=
  { inv_emptyAccumulator hi with
    dio := by simp [stbRise]
    counter := by simp [stbRise]
    counterIdle := fun _ => rfl
    keyRead := nofun }

/-- The sampled bit goes just above the bits received before (R77), so none is above the new count. -/
theorem shiftIn_currentByte_lt {d : Bool} (hbyte : s.currentByte.toNat < 2 ^ s.bitIndex.toNat) :
    (shiftIn d s).currentByte.toNat < 2 ^ (s.bitIndex.toNat + 1) := by
  have hbit : ((BitVec.ofBool d).setWidth 8 <<< s.bitIndex.toNat).toNat < 2 ^ (s.bitIndex.toNat + 1) :=
    calc ((BitVec.ofBool d).setWidth 8 <<< s.bitIndex.toNat).toNat
        ≤ 1 * 2 ^ s.bitIndex.toNat := by
          rw [BitVec.toNat_shiftLeft, Nat.shiftLeft_eq]
          refine (Nat.mod_le _ _).trans (Nat.mul_le_mul_right _ ?_)
          cases d <;> decide
      _ < 2 ^ (s.bitIndex.toNat + 1) := by rw [Nat.one_mul]; exact Nat.pow_lt_pow_succ (by decide)
  rw [shiftIn_currentByte, BitVec.toNat_or]
  exact Nat.or_lt_two_pow (hbyte.trans (Nat.pow_lt_pow_succ (by decide))) hbit

/-- A bit that completes no byte is the seventh at most. -/
theorem inv_shiftIn (d : Bool) (hi : Inv s) (hr : s.readingKeys = false) (h7 : s.bitIndex ≠ 7) :
    Inv (shiftIn d s) := by
  have hcount : (s.bitIndex + 1).toNat = s.bitIndex.toNat + 1 := by
    have := hi.bitIndex
    bv_omega
  have hle : s.bitIndex.toNat + 1 ≤ 7 := by
    have := hi.bitIndex
    bv_omega
  exact
    { hi with
      bitIndex := by rw [shiftIn_bitIndex, hcount]; exact hle
      partialByte := by rw [shiftIn_bitIndex, hcount]; exact shiftIn_currentByte_lt hi.partialByte
      keyRead := fun h => absurd (hr.symm.trans h) (by decide) }

/-- Entering key-read mode from a byte boundary, with command mode ended and DIO driven (R91). -/
theorem inv_enterKeyRead (hi : Inv s) (hbyte : s.currentByte = 0) (hbits : s.bitIndex = 0) (f : Bool) :
    Inv { enterKeyRead s with autoInc := f, commandMode := false } :=
  { hi with
    dio := by simp
    counter := by simp
    counterIdle := nofun
    keyRead := fun _ => ⟨rfl, hbyte, hbits⟩ }

/-- Outside key-read mode an instruction that runs at a byte boundary keeps the invariants. -/
theorem inv_afterInstr (i : Instr) (hi : Inv s) (hr : s.readingKeys = false) (hbyte : s.currentByte = 0)
    (hbits : s.bitIndex = 0) : Inv (afterInstr i s) := by
  have hno {P : Prop} (h : s.readingKeys = true) : P := absurd (hr.symm.trans h) (by decide)
  cases i with
  | displayModeSet m => exact hi
  | dataSet x f r x0 =>
    cases r with
    | true => exact inv_enterKeyRead hi hbyte hbits _
    | false => exact { hi with keyRead := hno }
  | displayControl x e b => exact { hi with }
  | addressSet x a => exact { hi with keyRead := hno }
  | dataWrite d =>
    rw [afterInstr]
    split
    · rename_i hlt
      exact { hi with ram := Memory.wf_write d hlt hi.ram }
    · exact hi

/-- A shift-out edge counts to 24 at most. -/
theorem inv_shiftOut (hi : Inv s) (hr : s.readingKeys = true) : Inv (shiftOut s) := by
  obtain ⟨h, e⟩ | ⟨_, e⟩ := shiftOut_cases s
  · rw [e]
    have hcount : (s.keyBitCounter + 1).toNat ≤ 24 := by bv_omega
    exact { hi with counter := hcount, counterIdle := fun h => absurd (hr.symm.trans h) (by decide) }
  · rw [e]; exact hi

/-- A scan sets no other report bits than the five of the key-bit table (R104). -/
theorem scanReport_masked (k1 : Vector Level 5) :
    (scanReport k1)[0] &&& 0xED#8 = 0 ∧ (scanReport k1)[1] &&& 0xED#8 = 0 ∧ (scanReport k1)[2] &&& 0xFD#8 = 0 := by
  rw [Multiplex.scanReport_byte0, Multiplex.scanReport_byte1, Multiplex.scanReport_byte2]
  refine ⟨?_, ?_, ?_⟩ <;> split_ifs <;> rfl

/-- A scan leaves every grid high, and the report as its samples make it. -/
theorem inv_scanTick (k1 : Vector Level 5) (hi : Inv s) : Inv { scanPhase k1 s with phase := .display } := by
  rw [scanPhase_spec]
  exact
    { hi with
      report := scanReport_masked k1
      oneGrid := fun g h hg _ => absurd ((Multiplex.blankGrid_get g).symm.trans hg) (by decide)
      blanked := fun _ => Multiplex.blankGrid_get }

/-- A display phase lights one grid at most, since the scan before it left none lit. -/
theorem inv_displayTick (hi : Inv s) (hp : s.phase = .display) : Inv { displayPhase s with phase := .scan } := by
  rcases Bool.eq_false_or_eq_true s.displayOn with hon | hoff
  · rw [displayPhase_on hon]
    have hlow := Multiplex.low_iff_of_set_blank (hi.blanked hp) s.activeGrid
    exact
      { hi with
        oneGrid := fun g h hg hh => ((hlow g).1 hg).trans ((hlow h).1 hh).symm
        blanked := nofun }
  · rw [displayPhase_off hoff]
    exact { hi with blanked := nofun }

theorem inv_tick (k1 : Vector Level 5) (hi : Inv s) : Inv (tick k1 s) := by
  cases hp : s.phase with
  | scan => rw [tick_scan k1 hp]; exact inv_scanTick k1 hi
  | display => rw [tick_display k1 hp]; exact inv_displayTick hi hp

end EachEvent

/-- Settles O38: by the event the step takes. -/
theorem everyStepKeepsInv : Obligations.EveryStepKeepsInv := by
  intro s t hi h
  have hrest := inv_events hi
  obtain rfl | ⟨rest, _, rfl⟩ | ⟨_, rest, _, hr, h7, rfl⟩ | ⟨_, _, rest, _, ⟨_, _, _, hr, _⟩, rfl⟩ |
    ⟨rest, _, hr, rfl⟩ | ⟨k1, rest, _, rfl⟩ := Writers.step_changes h
  · exact hrest _
  · -- STB_RISE
    exact inv_stbRise (hrest rest)
  · -- CLK_RISE that shifts a bit in
    exact inv_shiftIn _ (hrest rest) hr h7
  · -- CLK_RISE that completes a byte
    exact inv_afterInstr _ (inv_emptyAccumulator (hrest rest)) hr rfl rfl
  · -- CLK_FALL in key-read mode
    exact inv_shiftOut (hrest rest) hr
  · -- a tick
    exact inv_tick k1 (hrest rest)

end Sys2Proof.Invariants
end

section
/-! PROOFS. The modes of the serial side (spec/41_commands.md section 6, spec/60_exceptions.md section 5), and that a
scan tick commutes with a host event but for a shift-out edge (spec/10_state.md, section 2). -/

namespace Sys2Proof.Modes

open Machine

/-! The three modes (R99, R124). -/

/-- An instruction that writes `commandMode` clears it, and is a Data Command Setting or an Address Setting. -/
theorem afterInstr_commandMode (i : Instr) (s : State) :
    (afterInstr i s).commandMode = s.commandMode ∨
    (afterInstr i s).commandMode = false ∧ ((∃ x f r x0, i = .dataSet x f r x0) ∨ ∃ x a, i = .addressSet x a) := by
  cases i with
  | displayModeSet m => exact .inl rfl
  | dataSet x f r x0 => exact .inr ⟨rfl, .inl ⟨x, f, r, x0, rfl⟩⟩
  | displayControl x e b => exact .inl rfl
  | addressSet x a => exact .inr ⟨rfl, .inr ⟨x, a, rfl⟩⟩
  | dataWrite d => rw [afterInstr]; split <;> exact .inl rfl

/-- What a step does to command mode: STB_RISE enters it, and two commands end it. -/
theorem step_commandMode {s t : State} (h : step s = .next t) :
    t.commandMode = s.commandMode ∨
    (t.commandMode = true ∧ ∃ rest, s.events = .stbRise :: rest) ∨
    (t.commandMode = false ∧ ∃ b, CompletesByte s b ∧ (topBits b = 1#2 ∨ topBits b = 3#2)) := by
  obtain rfl | ⟨rest, he, rfl⟩ | ⟨_, _, _, _, _, rfl⟩ | ⟨b, _, rest, _, hb, rfl⟩ | ⟨rest, _, _, rfl⟩ |
    ⟨k1, rest, _, rfl⟩ := Writers.step_changes h
  · exact .inl rfl
  · -- STB_RISE
    exact .inr (.inl ⟨rfl, rest, he⟩)
  · -- CLK_RISE that shifts a bit in
    exact .inl rfl
  · -- CLK_RISE that completes a byte
    obtain hkept | ⟨hdata, ⟨_, _, _, _, hi⟩ | ⟨_, _, hi⟩⟩ := afterInstr_commandMode (decodeByte s.commandMode b)
      { s with events := rest, currentByte := 0, bitIndex := 0 }
    · exact .inl hkept
    · obtain ⟨-, htop, -⟩ := SerialLink.of_decodeByte_eq_dataSet hi
      exact .inr (.inr ⟨hdata, b, hb, .inl htop⟩)
    · obtain ⟨-, htop, -⟩ := Commands.of_decodeByte_eq_addressSet hi
      exact .inr (.inr ⟨hdata, b, hb, .inr htop⟩)
  · -- CLK_FALL in key-read mode
    obtain ⟨_, _, e⟩ := shiftOut_frame { s with events := rest }
    exact .inl (by rw [e])
  · -- a tick
    obtain ⟨_, _, _, _, _, e⟩ := tick_frame k1 { s with events := rest }
    exact .inl (by rw [e])

/-- No event but STB_RISE ends key-read mode. -/
theorem step_readingKeys {s t : State} (h : step s = .next t) (hr : s.readingKeys = true) :
    t.readingKeys = true ∨ ∃ rest, s.events = .stbRise :: rest := by
  cases he : s.events with
  | nil =>
    obtain rfl := Host.Outcome.next.inj ((step_of_no_events he).symm.trans h)
    exact .inl hr
  | cons e rest =>
    by_cases hstb : e = .stbRise
    · exact .inr ⟨rest, by rw [hstb]⟩
    · exact .inl (KeyReport.readsOn_step hr he hstb h).reading

/-- The invariants leave out the pair of modes that R124 does not have. -/
theorem serialMode_ne_none {s : State} (hi : Machine.Inv s) : serialMode s ≠ none := by
  cases hr : s.readingKeys with
  | true =>
    obtain ⟨hc, -, -⟩ := hi.keyRead hr
    simp [serialMode, hr, hc]
  | false => cases hc : s.commandMode <;> simp [serialMode, hr, hc]

/-- Settles O42: the writers of the two mode fields, and the invariant that keeps them apart. -/
theorem modeChangesOnlyAsTheSpecSays : Obligations.ModeChangesOnlyAsTheSpecSays := by
  intro s t h
  refine ⟨fun hs ht => ?entersCommand, fun hs ht => ?leavesCommand, fun hs ht => ?leavesKeyRead,
    fun hs ht => ?entersKeyRead, fun hi => ?oneOfThree⟩
  case entersCommand =>
    obtain hkept | ⟨-, hstb⟩ | ⟨hdata, -⟩ := step_commandMode h
    · exact absurd ((ht.symm.trans hkept).trans hs) (by decide)
    · exact hstb
    · exact absurd (ht.symm.trans hdata) (by decide)
  case leavesCommand =>
    obtain hkept | ⟨hcommand, -⟩ | ⟨-, hbyte⟩ := step_commandMode h
    · exact absurd ((ht.symm.trans hkept).trans hs) (by decide)
    · exact absurd (ht.symm.trans hcommand) (by decide)
    · exact hbyte
  case leavesKeyRead =>
    obtain hreading | hstb := step_readingKeys h hs
    · exact absurd (ht.symm.trans hreading) (by decide)
    · exact hstb
  case entersKeyRead =>
    obtain ⟨b, _, _, _, hb, hi⟩ := SerialLink.completes_keyRead_of_step_enters hs h ht
    exact ⟨b, hb, SerialLink.of_decodeByte_eq_dataSet hi⟩
  case oneOfThree =>
    exact ⟨serialMode_ne_none hi, serialMode_ne_none (Invariants.everyStepKeepsInv s t hi h)⟩

/-! A scan tick next to a host event. -/

/-- What a scan tick writes, and the events pending, put in place of a state's own. -/
def withScanFields (es : List Event) (report : Vector Byte 3) (seg : Vector Level 8) (grid : Vector Level 4)
    (phase : Phase) (s : State) : State :=
  { s with events := es, keyData := report, seg := seg, grid := grid, phase := phase }

section Commute

variable (es : List Event) (report : Vector Byte 3) (seg : Vector Level 8) (grid : Vector Level 4) (phase : Phase)

/-- No instruction reads or writes these fields. -/
theorem afterInstr_withScanFields (i : Instr) (s : State) :
    afterInstr i (withScanFields es report seg grid phase s) =
      withScanFields es report seg grid phase (afterInstr i s) := by
  cases i with
  | displayModeSet m => rfl
  | dataSet x f r x0 => cases r <;> rfl
  | displayControl x e b => rfl
  | addressSet x a => rfl
  | dataWrite d =>
    by_cases h : s.address.toNat < 14
    · rw [afterInstr, afterInstr, if_pos h]
      exact if_pos h
    · rw [Commands.afterInstr_dataWrite_of_ge d (Nat.le_of_not_lt h),
        Commands.afterInstr_dataWrite_of_ge d (s := withScanFields es report seg grid phase s) (Nat.le_of_not_lt h)]

/-- Nor does a CLK_RISE. -/
theorem clkRise_withScanFields (dio : Level) {s t : State} (h : clkRise dio s = .next t) :
    clkRise dio (withScanFields es report seg grid phase s) = .next (withScanFields es report seg grid phase t) := by
  rcases Bool.eq_false_or_eq_true s.readingKeys with hreading | hreceiving
  · obtain rfl := Host.Outcome.next.inj ((clkRise_of_reading dio hreading).symm.trans h)
    exact clkRise_of_reading dio (s := withScanFields es report seg grid phase s) hreading
  · rw [clkRise_of_not_reading dio hreceiving] at h
    rw [clkRise_of_not_reading dio (s := withScanFields es report seg grid phase s) hreceiving]
    by_cases h7 : s.bitIndex = 7
    · rw [if_pos h7, dispatch_eq] at h
      rw [if_pos (by exact h7), dispatch_eq]
      obtain rfl := Host.Outcome.next.inj h
      exact congrArg Host.Outcome.next (afterInstr_withScanFields es report seg grid phase
        (decodeByte s.commandMode (shiftIn (bit (pinReadDio dio s)) s).currentByte)
        { s with currentByte := 0, bitIndex := 0 })
    · rw [if_neg h7] at h
      rw [if_neg (by exact h7)]
      obtain rfl := Host.Outcome.next.inj h
      rfl

/-- Of the host's events only a shift-out edge reads these fields: it reads the report. -/
theorem handle_withScanFields {e : Event} {s t : State} (hhost : e.fromHost = true)
    (hedge : ¬ (e = .clkFall ∧ s.readingKeys = true)) (h : handle e s = .next t) :
    handle e (withScanFields es report seg grid phase s) = .next (withScanFields es report seg grid phase t) := by
  cases e with
  | stbRise => obtain rfl := Host.Outcome.next.inj h; rfl
  | stbFall => obtain rfl := Host.Outcome.next.inj h; rfl
  | clkRise dio => exact clkRise_withScanFields es report seg grid phase dio h
  | clkFall =>
    have hr : s.readingKeys = false := by simpa using hedge
    obtain rfl : clkFall s = t := Host.Outcome.next.inj h
    rw [clkFall_of_not_reading hr]
    exact congrArg Host.Outcome.next (clkFall_of_not_reading (s := withScanFields es report seg grid phase s) hr)
  | tick k1 => cases hhost

end Commute

/-- The fields as a scan of the samples `k1` leaves them, `before` being the segment pins it found. -/
def withScanDone (k1 : Vector Level 5) (before : Vector Level 8) (es : List Event) : State → State :=
  withScanFields es (scanReport k1) #v[.H, .H, .H, .H, .L, before[5], before[6], before[7]] #v[.H, .H, .H, .H] .display

theorem step_tick_withScanDone {s : State} {k1 : Vector Level 5} {rest : List Event}
    (he : s.events = .tick k1 :: rest) (hp : s.phase = .scan) : step s = .next (withScanDone k1 s.seg rest s) :=
  Multiplex.step_tick_scan_spec he hp

/-- Settles O46: in either order the event's rule runs on the same serial side, and the scan leaves the same pins and
the same report. -/
theorem scanTickCommutesWithHostEvents : Obligations.ScanTickCommutesWithHostEvents := by
  intro s k1 e rest hhost hp hedge
  obtain ⟨t, ht⟩ := Exceptions.handle_completes e s
  have tickFirst : runSteps 2 { s with events := .tick k1 :: e :: rest } = .next (withScanDone k1 s.seg rest t) :=
    calc runSteps 2 { s with events := .tick k1 :: e :: rest }
        = runSteps 1 (withScanDone k1 s.seg (e :: rest) s) := runSteps_succ 1 (step_tick_withScanDone rfl hp)
      _ = handle e (withScanDone k1 s.seg rest s) := (ShiftIn.runSteps_one_eq_step _).trans (step_of_events rfl)
      _ = .next (withScanDone k1 s.seg rest t) := handle_withScanFields _ _ _ _ _ hhost hedge ht
  have eventFirst : runSteps 2 { s with events := e :: .tick k1 :: rest } = .next (withScanDone k1 s.seg rest t) :=
    have hevent : step { s with events := e :: .tick k1 :: rest } =
        .next (withScanFields (.tick k1 :: rest) s.keyData s.seg s.grid s.phase t) :=
      (step_of_events rfl).trans
        (handle_withScanFields (s := s) _ s.keyData s.seg s.grid s.phase hhost hedge ht)
    (runSteps_succ 1 hevent).trans (runSteps_one (step_tick_withScanDone rfl hp))
  rw [tickFirst, eventFirst]

end Sys2Proof.Modes
end
